-- ==== Sys2Proof/Word.lean ====
section
/-! DEFINITION. The widths of the block's data (00_scope.md R5, R6): everything here is unsigned, and bit 0 is
the least significant bit. The arithmetic on these words stands in Machine/Operands.lean. -/

namespace Sys2Proof

/-- `u32` of 00_scope.md R6: a generator word, a seed word, a limit, a raw sample. -/
abbrev Word := BitVec 32

/-- `u64` of 00_scope.md R6: the product NUM. -/
abbrev DWord := BitVec 64

/-- A command word, carried on `cmd_data` (30_encoding.md R60). -/
abbrev CmdWord := BitVec 64

/-- A response word, carried on `rsp_data` (30_encoding.md R61). -/
abbrev RspWord := BitVec 64

/-- The 16 bytes of an entropy answer, carried on `ent_rsp_data` (20_memory.md R41, R47). -/
abbrev EntData := BitVec 128

/-- Four words in index order: the shape of S and of STAGE (10_state.md R20, R24; 00_scope.md R9). -/
structure Quad where
  w0 : Word
  w1 : Word
  w2 : Word
  w3 : Word
  deriving DecidableEq, Repr

end Sys2Proof
end

