-- ==== Sys2Proof/Config.lean ====
section
/-! DEFINITION. What is fixed for the block (the parameters of 00_scope.md R5), and the two values the spec
leaves open. The third open parameter of R5, ENTROPY, is no constant: it is the input script that State holds
(`State.edges`), so that every statement over all states quantifies over every oracle. -/

namespace Sys2Proof.Config

/-- Output multiplier 1 (R5). -/
def outMul1 : Word := 5

/-- Output rotation (R5). -/
def outRot : Nat := 7

/-- Output multiplier 2 (R5). -/
def outMul2 : Word := 9

/-- State shift (R5). -/
def stateShift : Nat := 9

/-- State rotation (R5). -/
def stateRot : Nat := 11

/-- Entropy request: 16 bytes per attempt, so a full read has this count (R5; 20_memory.md R45, R46). -/
def entropyBytes : BitVec 5 := 16

/-- The value at which DRAWS saturates (R5; 10_state.md R29). -/
def drawsMax : BitVec 24 := 0xFFFFFF

/-- FREE VALUE (log entry 6). N_INST, the number of block copies in a system: OPEN (R5, decision D2). -/
opaque nInst : Nat

/-- FREE VALUE (log entry 7). What `urem(a, 0)` would be: it "has no meaning" (R8), and a model may take any
value there (93_implementation_defined.md I5). -/
opaque uremByZero : Word → Word

end Sys2Proof.Config
end

