-- ==== Sys2Proof/Syntax.lean ====
section
/-! DEFINITION. The command set XPRGC2-CMD version 1 (00_scope.md R1): one constructor for each row of
spec/opcode_table.json, with the operands of 30_encoding.md R64. -/

namespace Sys2Proof

/-- A decoded command (30_encoding.md R62). An index is one of 0..3, and every index is valid (R64). -/
inductive Instr where
  /-- NOP: a status probe (42_control.md R120). -/
  | nop
  /-- INIT: explicit initialization (40_generator.md R86). -/
  | init
  /-- SEEDW: write one seed staging word (40_generator.md R87). -/
  | seedw (idx : Fin 4) (imm : Word)
  /-- SEEDC: commit the staging words to the generator state (40_generator.md R88). -/
  | seedc
  /-- NEXT: one raw sample (40_generator.md R89). -/
  | next
  /-- BOUNDED: one bounded sample in `[0, limit)` (41_sampler.md R104). -/
  | bounded (limit : Word)
  /-- RDSTATE: read one generator word back (40_generator.md R90). -/
  | rdstate (idx : Fin 4)
  deriving DecidableEq, Repr

end Sys2Proof
end

