-- ==== Sys2Proof/Machine/State.lean ====
section
/-! DEFINITION. The state of one copy of the block (10_state.md), the inputs it has still to meet
(20_memory.md R41, R54), and what has been observed of it (00_scope.md R11). There is no memory, no program
counter and no general register (10_state.md R31; 20_memory.md R40). -/

namespace Sys2Proof.Machine

/-- SEQ, the sequencer state (10_state.md R27). -/
inductive Seq where
  /-- No command is in progress. -/
  | idle
  /-- A command is in progress; the generator steps and the sampler loop run here. -/
  | exec
  /-- An entropy request is outstanding. -/
  | entWait
  /-- The response is valid and waits for `rsp_ready`. -/
  | rspPend
  deriving DecidableEq, Repr

/-- PHASE, the sampler's phase (10_state.md R28). -/
inductive Phase where
  | draw
  | fastCheck
  | residueCalc
  | loopCheck
  | done
  deriving DecidableEq, Repr

/-- The commands that can run ENSURE_SEEDED (40_generator.md R83): what goes on once S is seeded. -/
inductive Seeder where
  | init
  | next
  | bounded
  deriving DecidableEq, Repr

/-- What a command in progress has still to do. The spec implies this part of the sequencer and does not name
it: a command held in ENSURE_SEEDED goes on with its own rule (40_generator.md R83), and a redraw belongs to a
BOUNDED (41_sampler.md R103). DEDUCED (log entry 3). -/
inductive Work where
  /-- Nothing: no command is in progress, or its response is made. -/
  | none
  /-- A command is inside EntropyDraw() of ENSURE_SEEDED (R83). -/
  | seeding (k : Seeder)
  /-- A BOUNDED whose last sample was rejected has a redraw to make (41_sampler.md R103). -/
  | redrawing
  deriving DecidableEq, Repr

/-- The rejection_sampler's working registers (10_state.md R28): they live only during a BOUNDED. -/
structure Sampler where
  /-- LIM, the latched limit. -/
  lim : Word
  /-- RAW, the last raw sample. -/
  raw : Word
  /-- NUM, `mul64(RAW, LIM)`. -/
  num : DWord
  /-- RESIDUE, computed at most once per command. -/
  residue : Word
  /-- PHASE. -/
  phase : Phase
  /-- The model's record of the values PHASE has taken in this BOUNDED, the latest first (41_sampler.md R109; log
  entry 16). -/
  phases : List Phase
  deriving DecidableEq, Repr

/-- The input signals at one rising edge of `clk` (20_memory.md R41). -/
structure Edge where
  rst : Bool
  cmdValid : Bool
  cmdData : CmdWord
  rspReady : Bool
  entReqReady : Bool
  entRspValid : Bool
  entRspCount : BitVec 5
  entRspData : EntData
  deriving DecidableEq, Repr

/-- What is observed of the block (00_scope.md R11), and with it the accepted commands and the resets, which the
host itself causes. -/
inductive Event where
  /-- A command word was accepted (20_memory.md R43). -/
  | accepted (w : CmdWord)
  /-- An entropy request was issued (20_memory.md R45). -/
  | entropyRequest
  /-- A response word was transferred (20_memory.md R44). -/
  | response (w : RspWord)
  /-- An edge with `rst` = 1 (70_reset_and_hazards.md R160). -/
  | reset
  deriving DecidableEq, Repr

/-- The state of one block, with the rest of its input script and its observation. -/
structure State where
  /-- S[0]..S[3], the generator state (10_state.md R20). -/
  S : Quad
  /-- STAGE[0]..STAGE[3], the seed staging words (10_state.md R24). -/
  stage : Quad
  /-- FAULT, the sticky fault bit (10_state.md R25). -/
  fault : Bool
  /-- SEQ, the sequencer state (10_state.md R27). -/
  seq : Seq
  /-- What the command in progress has still to do (log entry 3). -/
  work : Work
  /-- ENT_OUT: an entropy request is issued and not yet answered (10_state.md R30). -/
  entOut : Bool
  /-- DRAWS, a saturating counter of the command's draws (10_state.md R29). -/
  draws : BitVec 24
  /-- LIM, RAW, NUM, RESIDUE and PHASE (10_state.md R28). -/
  smp : Sampler
  /-- The response word held on `rsp_data` while SEQ = RSP_PEND (20_memory.md R44). -/
  rspData : RspWord
  /-- The command word the host offers and that has not transferred yet, which it must hold (20_memory.md R42,
  R54). -/
  offered : Option CmdWord
  /-- The model's input script: the edges still to come, the next one first (20_memory.md R54; log entries 1
  and 2). -/
  edges : List Edge
  /-- The model's record of the observation, the latest event first (00_scope.md R11; log entry 9). -/
  trace : List Event
  deriving DecidableEq, Repr

/-- Why the machine takes no step. Each is a HOLD of the spec: the block "has no step of its own" and only the
environment can go on (20_memory.md R54, R56; 93_implementation_defined.md I9, treatment `stuck`). All four are
raised by `step` alone, when the input script is at its end and the block has nothing left to do, and all four
are safe: nothing is claimed of what the environment does later. No instruction's meaning raises one. -/
inductive Fault where
  /-- SEQ = IDLE: the host may leave `cmd_valid` low for any time (R54). Safe. -/
  | awaitsCommand
  /-- SEQ = EXEC with `ent_req_valid` = 1: the entropy source may take any time to raise `ent_req_ready` (R54).
  Safe. -/
  | awaitsEntropyReady
  /-- SEQ = ENT_WAIT: only the entropy source can lift the hold (R56). Safe. -/
  | awaitsEntropyAnswer
  /-- SEQ = RSP_PEND: the host may leave `rsp_ready` low for any time (R54). Safe. -/
  | awaitsResponseReady
  deriving DecidableEq, Repr

/-- Why the model has no answer. -/
inductive Refusal where
  /-- Raised by `exec` alone, for an instruction that has no meaning yet. Safe. No arm does so now. -/
  | notModelled (mnemonic : String)
  /-- Raised by `step` alone: the host dropped `cmd_valid` or changed `cmd_data` before the transfer. The spec
  calls the block's behaviour there unspecified and has the model refuse it (20_memory.md R54;
  93_implementation_defined.md I6). Safe. No move on the response channel raises it (DESIGN CHOICE, log entry 17). -/
  | handshakeBroken
  deriving DecidableEq, Repr

/-- The sampler registers at reset. The spec gives them no value: "unspecified; never read before written"
(10_state.md R32). DESIGN CHOICE, unsafe in itself (log entry 4). -/
def Sampler.reset : Sampler := { lim := 0, raw := 0, num := 0, residue := 0, phase := .done, phases := [] }

/-- The state right after reset (10_state.md R32; 70_reset_and_hazards.md R160), with no input to come and
nothing observed. `rspData` has no reset value in the spec: DESIGN CHOICE 0 (log entry 5). -/
def State.reset : State where
  S := ⟨0, 0, 0, 0⟩
  stage := ⟨0, 0, 0, 0⟩
  fault := false
  seq := .idle
  work := .none
  entOut := false
  draws := 0
  smp := Sampler.reset
  rspData := 0
  offered := none
  edges := []
  trace := []

end Sys2Proof.Machine
end

