-- ==== Sys2Proof/Machine/Operands.lean ====
section
/-! DEFINITION. The arithmetic of 00_scope.md R7 and R8, the access to one of four words by its index
(30_encoding.md R64), and the words of an entropy answer (20_memory.md R47). -/

namespace Sys2Proof.Machine

/-- `rotl(a, k)` for 0 < k < 32, as the source gives it (00_scope.md R7). -/
def rotl (a : Word) (k : Nat) : Word := (a <<< k) ||| (a >>> (32 - k))

/-- The exact product of two words (00_scope.md R8). -/
def mul64 (a b : Word) : DWord := a.setWidth 64 * b.setWidth 64

/-- `hi32(n)` = `n[63:32]` (00_scope.md R8). -/
def hi32 (n : DWord) : Word := n.extractLsb' 32 32

/-- `lo32(n)` = `n[31:0]` (00_scope.md R8). -/
def lo32 (n : DWord) : Word := n.extractLsb' 0 32

/-- `urem(a, b)`, the unsigned remainder; `urem(a, 0)` has no meaning (00_scope.md R8) and is a free value
(93_implementation_defined.md I5; log entry 7). -/
def urem (a b : Word) : Word := if b = 0 then Config.uremByZero a else a % b

/-- All four words are zero (00_scope.md R9). -/
def zeroQuad : Quad := ⟨0, 0, 0, 0⟩

/-- `x[i]`, the word at an index (00_scope.md R9). -/
def wordAt (q : Quad) (i : Fin 4) : Word :=
  match i with
  | 0 => q.w0
  | 1 => q.w1
  | 2 => q.w2
  | 3 => q.w3

/-- `x[i] <- v`, the other words kept (00_scope.md R9). -/
def setWordAt (q : Quad) (i : Fin 4) (v : Word) : Quad :=
  match i with
  | 0 => { q with w0 := v }
  | 1 => { q with w1 := v }
  | 2 => { q with w2 := v }
  | 3 => { q with w3 := v }

/-- `STATE128 = {S[3], S[2], S[1], S[0]}`, the 128-bit view of four words (10_state.md R21). -/
def state128 (q : Quad) : BitVec 128 := q.w3 ++ q.w2 ++ q.w1 ++ q.w0

/-- Entropy byte number `k`, `ent_rsp_data[8*k+7 : 8*k]` (20_memory.md R47). -/
def entByte (d : EntData) (k : Nat) : BitVec 8 := d.extractLsb' (8 * k) 8

/-- The four words of a full read, `w[i] = data[32*i+31 : 32*i]`: the bytes little-endian (20_memory.md R47;
40_generator.md R83). -/
def entWords (d : EntData) : Quad :=
  ⟨d.extractLsb' 0 32, d.extractLsb' 32 32, d.extractLsb' 64 32, d.extractLsb' 96 32⟩

end Sys2Proof.Machine
end

