-- ==== Sys2Proof/Machine/Flags.lean ====
section
/-! DEFINITION. The two flags, SEEDED and FLT, the status codes (60_exceptions.md R130), the response word
(30_encoding.md R61), and the output signals (20_memory.md R41). -/

namespace Sys2Proof.Machine

/-- SEEDED, the Boolean `S != 0`: derived, not stored (10_state.md R22). -/
def State.seeded (s : State) : Bool := decide (s.S ≠ zeroQuad)

/-- The status codes a response can carry; 0x4 to 0xE are never produced (60_exceptions.md R130). -/
inductive Status where
  | ok
  | illegal
  | limitZero
  | zeroSeed
  | fatalEntropy
  deriving DecidableEq, Repr

/-- The code of a status (60_exceptions.md R130). -/
def Status.code : Status → BitVec 4
  | .ok => 0x0
  | .illegal => 0x1
  | .limitZero => 0x2
  | .zeroSeed => 0x3
  | .fatalEntropy => 0xF

/-- A response word: `{DRAWS, 2'b00, FLT, SEEDED, STATUS, DATA}` (30_encoding.md R61). -/
def packRsp (draws : BitVec 24) (flt seeded : Bool) (status : BitVec 4) (data : Word) : RspWord :=
  draws ++ 0#2 ++ BitVec.ofBool flt ++ BitVec.ofBool seeded ++ status ++ data

/-- The response word the block would make in this state (30_encoding.md R61): SEEDED and FLT are those of the
state. -/
def State.rspWord (s : State) (st : Status) (data : Word) (draws : BitVec 24) : RspWord :=
  packRsp draws s.fault s.seeded st.code data

/-- One more draw, saturating (10_state.md R29). -/
def satInc (d : BitVec 24) : BitVec 24 := if d = Config.drawsMax then Config.drawsMax else d + 1

/-- The output `cmd_ready`: 1 exactly when `rst` is 0 and SEQ = IDLE (20_memory.md R43). -/
def State.cmdReady (s : State) (rst : Bool) : Bool := !rst && decide (s.seq = .idle)

/-- The output `rsp_valid` (20_memory.md R44), 0 while `rst` is 1 (70_reset_and_hazards.md R160). -/
def State.rspValid (s : State) (rst : Bool) : Bool := !rst && decide (s.seq = .rspPend)

/-- The output `ent_req_valid`: EntropyDraw() is invoked and its request is not yet issued (20_memory.md R45),
0 while `rst` is 1 (70_reset_and_hazards.md R160). -/
def State.entReqValid (s : State) (rst : Bool) : Bool :=
  !rst && match s.seq, s.work with
    | .exec, .seeding _ => true
    | _, _ => false

/-- The output `fault`, which equals FAULT at all times (10_state.md R26). -/
def State.faultOut (s : State) : Bool := s.fault

end Sys2Proof.Machine
end

