-- ==== Sys2Proof/Machine/Ops.lean ====
section
/-! DEFINITION. The operations the meanings share: making a response and raising an error (00_scope.md R10;
60_exceptions.md R131), the generator's step (40_generator.md R80), the sampler's loop (41_sampler.md R103,
R104), and ENSURE_SEEDED (40_generator.md R83). -/

namespace Sys2Proof.Machine

/-- `respond(status, data, draws)`: the command ends, its response word is made, and SEQ becomes RSP_PEND
(00_scope.md R10; 20_memory.md R44). -/
def State.respond (s : State) (st : Status) (data : Word) (draws : BitVec 24) : State :=
  { s with seq := .rspPend, work := .none, rspData := s.rspWord st data draws }

/-- `raise E`: TAKING AN ERROR. The block has no trap entry (60_exceptions.md R137): the command ends at once with
the error's status, DATA 0 and DRAWS 0, and nothing else changes (R131). The return from it is the transfer of
the response (`State.transfer`; R138). -/
def State.raise (s : State) (e : Status) : State := s.respond e 0 0

/-- FATAL_ENTROPY from a short read: FAULT becomes 1, and the command in progress ends (60_exceptions.md R134). -/
def State.shortRead (s : State) : State := { s with fault := true }.raise .fatalEntropy

/-- GEN_STEP's result (40_generator.md R80 step 1): from the pre-update S[0]. -/
def genOutput (q : Quad) : Word := rotl (q.w0 * Config.outMul1) Config.outRot * Config.outMul2

/-- GEN_STEP's transition (40_generator.md R80 steps 2 to 5), in the order the source gives. -/
def genNext (q : Quad) : Quad :=
  let t := q.w1 <<< Config.stateShift
  let w2 := q.w2 ^^^ q.w0
  let w3 := q.w3 ^^^ q.w1
  let w1 := q.w1 ^^^ w2
  let w0 := q.w0 ^^^ w3
  let w2 := w2 ^^^ t
  let w3 := rotl w3 Config.stateRot
  ⟨w0, w1, w2, w3⟩

/-- The effect of one GEN_STEP on the block: S steps, and DRAWS counts the draw (40_generator.md R80). -/
def State.genStep (s : State) : State := { s with S := genNext s.S, draws := satInc s.draws }

/-- `PHASE <- p` (41_sampler.md R104, R109), noted in the record of phases. -/
def Sampler.enter (smp : Sampler) (p : Phase) : Sampler := { smp with phase := p, phases := p :: smp.phases }

/-- `PHASE <- p` on the block. -/
def State.enter (s : State) (p : Phase) : State := { s with smp := s.smp.enter p }

/-- PHASE DRAW: `RAW <- GEN_STEP(); NUM <- mul64(RAW, LIM)` (41_sampler.md R104 steps 1 and 2). -/
def State.sampleDraw (s : State) : State :=
  let raw := genOutput s.S
  { s.genStep with smp := { s.smp.enter .draw with raw := raw, num := mul64 raw s.smp.lim } }

/-- Acceptance: PHASE becomes DONE, and the response carries `hi32(NUM)` and DRAWS (41_sampler.md R104
step 6). -/
def State.sampleDone (s : State) : State :=
  (s.enter .done).respond .ok (hi32 s.smp.num) s.draws

/-- PHASE LOOP_CHECK (41_sampler.md R103): a sample below RESIDUE is rejected and a redraw is due; any other is
accepted. -/
def State.loopCheck (s : State) : State :=
  let s := s.enter .loopCheck
  if lo32 s.smp.num < s.smp.residue then { s with seq := .exec, work := .redrawing } else s.sampleDone

/-- PHASE RESIDUE_CALC: `RESIDUE <- urem(-LIM, LIM)` (41_sampler.md R102). -/
def State.residueCalc (s : State) : State :=
  { s with smp := { s.smp.enter .residueCalc with residue := urem (-s.smp.lim) s.smp.lim } }

/-- PHASE FAST_CHECK (41_sampler.md R101): a sample whose fraction is not below LIM is accepted without a division; any
other goes by the slow path. -/
def State.fastCheck (s : State) : State :=
  let s := s.enter .fastCheck
  if lo32 s.smp.num < s.smp.lim then s.residueCalc.loopCheck else s.sampleDone

/-- A BOUNDED's first draw and its checks (41_sampler.md R104 steps 1 to 4, R109). The record of phases starts
here. -/
def State.firstSample (s : State) : State := { s with smp := { s.smp with phases := [] } }.sampleDraw.fastCheck

/-- One turn of the rejection loop (41_sampler.md R103): a redraw goes to LOOP_CHECK and never to FAST_CHECK
(R109). Each is a step of the machine, and nothing caps their number (R108). -/
def State.redraw (s : State) : State := s.sampleDraw.loopCheck

/-- NEXT after ENSURE_SEEDED (40_generator.md R89). -/
def State.rawSample (s : State) : State := s.genStep.respond .ok (genOutput s.S) s.genStep.draws

/-- What a command does after ENSURE_SEEDED (40_generator.md R86, R89; 41_sampler.md R104). -/
def State.resume (s : State) : Seeder → State
  | .init => s.respond .ok 0 0
  | .next => s.rawSample
  | .bounded => s.firstSample

/-- EntropyDraw() is invoked (20_memory.md R45): the command waits, and `ent_req_valid` is 1 until the request is
issued. -/
def State.askEntropy (s : State) (k : Seeder) : State := { s with seq := .exec, work := .seeding k }

/-- ENSURE_SEEDED at the head of its loop, and the command's own rule after it (40_generator.md R83): if SEEDED
already holds it does nothing and issues no request. -/
def State.ensureSeeded (s : State) (k : Seeder) : State :=
  if s.S = zeroQuad then s.askEntropy k else s.resume k

/-- The rest of one turn of ENSURE_SEEDED's loop (40_generator.md R83): the count is tested before the value; an
all-zero full read is retried, with no bound. -/
def State.useAnswer (s : State) (k : Seeder) (count : BitVec 5) (data : EntData) : State :=
  if count ≠ Config.entropyBytes then s.shortRead
  else if entWords data = zeroQuad then s.askEntropy k
  else { s with S := entWords data }.resume k

/-- The entropy answer (20_memory.md R46): ENT_OUT becomes 0, SEQ becomes EXEC, and EntropyDraw() returns. -/
def State.takeAnswer (s : State) (count : BitVec 5) (data : EntData) : State :=
  let s := { s with entOut := false, seq := .exec }
  match s.work with
  | .seeding k => s.useAnswer k count data
  | .redrawing => s
  | .none => s

/-- The entropy request is issued (20_memory.md R45). -/
def State.issueRequest (s : State) : State :=
  { s with entOut := true, seq := .entWait, trace := .entropyRequest :: s.trace }

/-- The response transfers and SEQ becomes IDLE (20_memory.md R44). This is also the only return from an error
(60_exceptions.md R138). -/
def State.transfer (s : State) : State := { s with seq := .idle, trace := .response s.rspData :: s.trace }

/-- A command word transfers (20_memory.md R43): SEQ becomes EXEC, and DRAWS becomes 0 as the first step of the
prologue (10_state.md R29; 60_exceptions.md R136). -/
def State.accept (s : State) (w : CmdWord) : State :=
  { s with seq := .exec, draws := 0, offered := none, trace := .accepted w :: s.trace }

/-- An edge with `rst` = 1 (70_reset_and_hazards.md R160, R161): every state item takes its reset value, and a
command in progress is abandoned without a response. The script and the record are not the block's. -/
def State.resetEdge (s : State) : State :=
  { State.reset with edges := s.edges, trace := .reset :: s.trace }

end Sys2Proof.Machine
end

