-- ==== Sys2Proof/Machine/Bounded.lean ====
section
/-! DEFINITION. The rejection_sampler's command (41_sampler.md). Its datapath stands in Machine/Ops.lean. -/

namespace Sys2Proof.Machine

/-- BOUNDED (41_sampler.md R104): LIM is latched, a limit of 0 is refused before any initialization or draw
(R105), and lazy initialization comes before the first draw. -/
def execBounded (limit : Word) (s : State) : Host.Outcome State Fault Refusal :=
  let s := { s with smp := { s.smp with lim := limit } }
  if limit = 0 then .next (s.raise .limitZero) else .next (s.ensureSeeded .bounded)

end Sys2Proof.Machine
end

