-- ==== Sys2Proof/Machine/Control.lean ====
section
/-! DEFINITION. The one control command (42_control.md). -/

namespace Sys2Proof.Machine

/-- NOP, a status probe (42_control.md R120). -/
def execNop (s : State) : Host.Outcome State Fault Refusal := .next (s.respond .ok 0 0)

end Sys2Proof.Machine
end

