-- ==== Sys2Proof/Machine/Generator.lean ====
section
/-! DEFINITION. The generator's commands (40_generator.md): INIT, SEEDW, SEEDC, NEXT and RDSTATE. Each runs only
after the prologue of 60_exceptions.md R136 (Machine/Sequencer.lean). -/

namespace Sys2Proof.Machine

/-- INIT (40_generator.md R86): a seeded block issues no request and answers at once. -/
def execInit (s : State) : Host.Outcome State Fault Refusal := .next (s.ensureSeeded .init)

/-- SEEDW (40_generator.md R87). -/
def execSeedw (idx : Fin 4) (imm : Word) (s : State) : Host.Outcome State Fault Refusal :=
  .next ({ s with stage := setWordAt s.stage idx imm }.respond .ok 0 0)

/-- SEEDC (40_generator.md R88): an all-zero staging value is refused with ZERO_SEED (60_exceptions.md R133). -/
def execSeedc (s : State) : Host.Outcome State Fault Refusal :=
  if s.stage = zeroQuad then .next (s.raise .zeroSeed)
  else .next ({ s with S := s.stage }.respond .ok 0 0)

/-- NEXT (40_generator.md R89), with lazy initialization (R91). -/
def execNext (s : State) : Host.Outcome State Fault Refusal := .next (s.ensureSeeded .next)

/-- RDSTATE (40_generator.md R90): it does not initialize. -/
def execRdstate (idx : Fin 4) (s : State) : Host.Outcome State Fault Refusal :=
  .next (s.respond .ok (wordAt s.S idx) 0)

end Sys2Proof.Machine
end

