-- ==== Sys2Proof/Machine/Dispatch.lean ====
section
/-! DEFINITION. `execute(instr)` of 60_exceptions.md R136: one meaning for each command. -/

namespace Sys2Proof.Machine

def exec (i : Instr) (s : State) : Host.Outcome State Fault Refusal :=
  match i with
  | .nop => Sys2Proof.Machine.execNop s
  | .init => Sys2Proof.Machine.execInit s
  | .seedw idx imm => Sys2Proof.Machine.execSeedw idx imm s
  | .seedc => Sys2Proof.Machine.execSeedc s
  | .next => Sys2Proof.Machine.execNext s
  | .bounded limit => Sys2Proof.Machine.execBounded limit s
  | .rdstate idx => Sys2Proof.Machine.execRdstate idx s

end Sys2Proof.Machine
end

