-- ==== Sys2Proof/WellFormed.lean ====
section
/-! DEFINITION. Well-formedness of a command as it is WRITTEN (30_encoding.md R69): its operands are numbers of
any size, and "the assembler refuses an `idx` outside 0..3 and an `imm` outside 0..2^32-1". The operands of
`Instr` carry these ranges in their types, so a command that passes the check is an `Instr`, and every `Instr`
is the reading of one that passes. -/

namespace Sys2Proof

/-- A command as it is written: a mnemonic with its operands as plain numbers (R69). -/
inductive SourceCmd where
  | nop
  | init
  | seedw (idx imm : Nat)
  | seedc
  | next
  | bounded (imm : Nat)
  | rdstate (idx : Nat)
  deriving DecidableEq, Repr

/-- An index operand is in 0..3 (R69). -/
def idxInRange (idx : Nat) : Bool := decide (idx < 4)

/-- An immediate operand is in 0..2^32-1 (R69). -/
def immInRange (imm : Nat) : Bool := decide (imm < 2 ^ 32)

/-- The assembler's check of a written command (R69): every operand is in its range. -/
def SourceCmd.wellFormed : SourceCmd → Bool
  | .nop => true
  | .init => true
  | .seedw idx imm => idxInRange idx && immInRange imm
  | .seedc => true
  | .next => true
  | .bounded imm => immInRange imm
  | .rdstate idx => idxInRange idx

/-- The command a written one stands for; none where the check refuses it. -/
def SourceCmd.toInstr (c : SourceCmd) : Option Instr :=
  if c.wellFormed then
    some (match c with
      | .nop => .nop
      | .init => .init
      | .seedw idx imm => .seedw (Fin.ofNat 4 idx) (BitVec.ofNat 32 imm)
      | .seedc => .seedc
      | .next => .next
      | .bounded imm => .bounded (BitVec.ofNat 32 imm)
      | .rdstate idx => .rdstate (Fin.ofNat 4 idx))
  else none

/-- A command written out, its operands as numbers. -/
def Instr.toSource : Instr → SourceCmd
  | .nop => .nop
  | .init => .init
  | .seedw idx imm => .seedw idx.val imm.toNat
  | .seedc => .seedc
  | .next => .next
  | .bounded limit => .bounded limit.toNat
  | .rdstate idx => .rdstate idx.val

/-- A command is well formed when its written form passes the assembler's check. -/
abbrev Instr.WellFormed (i : Instr) : Prop := i.toSource.wellFormed = true

end Sys2Proof
end

