-- ==== Sys2Proof/Decode.lean ====
section
/-! DEFINITION. The decoder, total over all 2^64 command words (30_encoding.md R65), and after it the encoder,
written from the bit patterns of R68. Decoding reads no state (R65), and every command is exactly 64 bits
(R67). -/

namespace Sys2Proof

/-- Why a word is ILLEGAL (30_encoding.md R66; 60_exceptions.md R131): a reserved opcode, a non-zero RZ, or a
non-zero field its opcode does not use. The block answers all of them with the one status ILLEGAL. -/
inductive DecodeError where
  /-- RZ = `cmd_data[31:6]` is not zero. -/
  | rzNonZero
  /-- OP is one of 0x7 to 0xF. -/
  | reservedOpcode
  /-- The opcode does not use IDX, and IDX is not zero. -/
  | idxNonZero
  /-- The opcode does not use IMM, and IMM is not zero. -/
  | immNonZero
  deriving DecidableEq, Repr

/-- OP, bits 3:0 (R60). -/
def opField (w : CmdWord) : BitVec 4 := w.extractLsb' 0 4

/-- IDX, bits 5:4 (R60). -/
def idxField (w : CmdWord) : BitVec 2 := w.extractLsb' 4 2

/-- RZ, bits 31:6 (R60). -/
def rzField (w : CmdWord) : BitVec 26 := w.extractLsb' 6 26

/-- IMM, bits 63:32 (R60). -/
def immField (w : CmdWord) : Word := w.extractLsb' 32 32

/-- IDX as an unsigned index 0..3 (R64). -/
def idxOperand (w : CmdWord) : Fin 4 := (idxField w).toFin

/-- A command with neither operand: IDX and IMM must be zero (R63). -/
def decodePlain (i : Instr) (w : CmdWord) : Except DecodeError Instr :=
  if idxField w ≠ 0 then .error .idxNonZero
  else if immField w ≠ 0 then .error .immNonZero
  else .ok i

/-- A command with an immediate and no index: IDX must be zero (R63). -/
def decodeImm (i : Word → Instr) (w : CmdWord) : Except DecodeError Instr :=
  if idxField w ≠ 0 then .error .idxNonZero else .ok (i (immField w))

/-- A command with an index and no immediate: IMM must be zero (R63). -/
def decodeIdx (i : Fin 4 → Instr) (w : CmdWord) : Except DecodeError Instr :=
  if immField w ≠ 0 then .error .immNonZero else .ok (i (idxOperand w))

/-- The decoder of R65. The order in which it finds a word ILLEGAL is not observable. -/
def decode (w : CmdWord) : Except DecodeError Instr :=
  if rzField w ≠ 0 then .error .rzNonZero
  else match (opField w).toNat with
    | 0x0 => decodePlain .nop w
    | 0x1 => decodePlain .init w
    | 0x2 => .ok (.seedw (idxOperand w) (immField w))
    | 0x3 => decodePlain .seedc w
    | 0x4 => decodePlain .next w
    | 0x5 => decodeImm .bounded w
    | 0x6 => decodeIdx .rdstate w
    | _ => .error .reservedOpcode

/-- The instruction the decoder reads from a word numbered as the opcode table numbers it: the low `nbits` bits
of `w`, every bit above them zero. A command is one 64-bit word (R67) with no byte order (20_memory.md R48), so
the table's numbering is that of `cmd_data`. -/
def decodeTableWord (nbits w : Nat) : Option Instr :=
  match decode (BitVec.ofNat 64 (w % 2 ^ nbits)) with
  | .ok i => some i
  | .error _ => none

/-- The command word with the given fields and RZ = 0 (R60). -/
def packCmd (imm : Word) (idx : BitVec 2) (op : BitVec 4) : CmdWord := imm ++ 0#26 ++ idx ++ op

/-- An index as the 2-bit IDX field (R64). -/
def idxBits (idx : Fin 4) : BitVec 2 := BitVec.ofFin idx

/-- The encoder: the bit patterns of R68. -/
def encode : Instr → CmdWord
  | .nop => packCmd 0 0 0x0
  | .init => packCmd 0 0 0x1
  | .seedw idx imm => packCmd imm (idxBits idx) 0x2
  | .seedc => packCmd 0 0 0x3
  | .next => packCmd 0 0 0x4
  | .bounded limit => packCmd limit 0 0x5
  | .rdstate idx => packCmd 0 (idxBits idx) 0x6

/-- The `match` column of the table of R63. -/
def rowMatch : Instr → CmdWord
  | .nop => 0x0000000000000000
  | .init => 0x0000000000000001
  | .seedw _ _ => 0x0000000000000002
  | .seedc => 0x0000000000000003
  | .next => 0x0000000000000004
  | .bounded _ => 0x0000000000000005
  | .rdstate _ => 0x0000000000000006

/-- The `mask` column of the table of R63. -/
def rowMask : Instr → CmdWord
  | .nop => 0xFFFFFFFFFFFFFFFF
  | .init => 0xFFFFFFFFFFFFFFFF
  | .seedw _ _ => 0x00000000FFFFFFCF
  | .seedc => 0xFFFFFFFFFFFFFFFF
  | .next => 0xFFFFFFFFFFFFFFFF
  | .bounded _ => 0x00000000FFFFFFFF
  | .rdstate _ => 0xFFFFFFFFFFFFFFCF

/-- The (match, mask) rows of R63, in the table's order; an operand of a row stands for all of its values. -/
def rows : List (CmdWord × CmdWord) :=
  ([.nop, .init, .seedw 0 0, .seedc, .next, .bounded 0, .rdstate 0] : List Instr).map
    fun i => (rowMatch i, rowMask i)

/-- A word encodes the row's instruction: `(w & mask) == match` (R63). -/
def matchesRow (w : CmdWord) (row : CmdWord × CmdWord) : Bool := w &&& row.2 == row.1

end Sys2Proof
end

