-- ==== Sys2Proof/Machine/Sequencer.lean ====
section
/-! DEFINITION. What one step of the machine is to do: the handshakes of 20_memory.md R42 to R46, the prologue of
60_exceptions.md R136, and the holds of 20_memory.md R56. Machine/Step.lean only carries it out. -/

namespace Sys2Proof.Machine

/-- What the sequencer settles for one step. -/
inductive Move where
  /-- The block's next state. -/
  | goto (s : State)
  /-- A command is accepted and decoded: run it. -/
  | run (i : Instr) (s : State)
  /-- The block holds, and the input script is at its end. -/
  | hold (f : Fault)
  /-- The host broke the handshake. -/
  | refuse (r : Refusal)
  deriving DecidableEq, Repr

/-- The prologue (60_exceptions.md R136): the sticky fault comes first, whatever the word (R135); then ILLEGAL
(R131); then the command itself. -/
def prologue (w : CmdWord) (s : State) : Move :=
  if s.fault then .goto (s.raise .fatalEntropy)
  else match decode w with
    | .error _ => .goto (s.raise .illegal)
    | .ok i => .run i s

/-- The host holds its offer "stable until the transfer" (20_memory.md R42, R54): a word offered and not
transferred yet is offered again, unchanged. `rsp_ready` is not asked about: no move of the host on the response
channel is taken to break the handshake, though 93_implementation_defined.md I6 names one without saying which.
DESIGN CHOICE, unsafe (log entry 17). -/
def handshakeKept (s : State) (e : Edge) : Bool :=
  match s.offered with
  | none => true
  | some w => e.cmdValid && e.cmdData == w

/-- A command word offered at an edge where `cmd_ready` is 0 stays offered (20_memory.md R42, R43). -/
def noteOffer (s : State) (e : Edge) : State :=
  { s with offered := if e.cmdValid then some e.cmdData else none }

/-- The block's part of an edge in SEQ = EXEC: the request is issued once the entropy source takes it
(20_memory.md R45), and a redraw that is due is made (41_sampler.md R103). -/
def execEdge (s : State) (e : Edge) : State :=
  match s.work with
  | .none => s
  | .seeding _ => if e.entReqReady then s.issueRequest else s
  | .redrawing => s.redraw

/-- An edge with `rst` = 0 and the handshake kept. An entropy answer counts only while ENT_OUT = 1; any other is
ignored (20_memory.md R46). -/
def edgeMove (s : State) (e : Edge) : Move :=
  match s.seq with
  | .idle => if e.cmdValid then prologue e.cmdData (s.accept e.cmdData) else .goto s
  | .exec => .goto (execEdge (noteOffer s e) e)
  | .entWait =>
    if e.entRspValid && s.entOut then .goto ((noteOffer s e).takeAnswer e.entRspCount e.entRspData)
    else .goto (noteOffer s e)
  | .rspPend => if e.rspReady then .goto (noteOffer s e).transfer else .goto (noteOffer s e)

/-- What the block waits for when it has nothing to do by itself. -/
def holdReason : Seq → Fault
  | .idle => .awaitsCommand
  | .exec => .awaitsEntropyReady
  | .entWait => .awaitsEntropyAnswer
  | .rspPend => .awaitsResponseReady

/-- The input script is at its end: the environment makes no further move. A rejection loop goes on by itself
(41_sampler.md R108); everything else is a hold, which no step of the block's own can end (20_memory.md R56;
70_reset_and_hazards.md R168). -/
def quietMove (s : State) : Move :=
  match s.seq, s.work with
  | .exec, .redrawing => .goto s.redraw
  | q, _ => .hold (holdReason q)

/-- One step: the next edge of the script, reset first (70_reset_and_hazards.md R160). -/
def move (s : State) : Move :=
  match s.edges with
  | [] => quietMove s
  | e :: rest =>
    if e.rst then .goto { s with edges := rest }.resetEdge
    else if handshakeKept s e then edgeMove { s with edges := rest } e
    else .refuse .handshakeBroken

/-- An edge at which the environment does nothing. -/
def Edge.quiet : Edge where
  rst := false
  cmdValid := false
  cmdData := 0
  rspReady := false
  entReqReady := false
  entRspValid := false
  entRspCount := 0
  entRspData := 0

/-- An edge at which the host offers a command word. -/
def Edge.command (w : CmdWord) : Edge := { Edge.quiet with cmdValid := true, cmdData := w }

/-- An edge at which the host can accept the response. -/
def Edge.respond : Edge := { Edge.quiet with rspReady := true }

/-- An edge at which the entropy source takes a request. -/
def Edge.request : Edge := { Edge.quiet with entReqReady := true }

/-- An edge at which the entropy source delivers an answer. -/
def Edge.answer (count : BitVec 5) (data : EntData) : Edge :=
  { Edge.quiet with entRspValid := true, entRspCount := count, entRspData := data }

/-- An edge with `rst` = 1. -/
def Edge.reset : Edge := { Edge.quiet with rst := true }

/-- The state in which the very next step accepts the word `w`: no command is in progress, the host has no other
word on offer, and the next edge offers `w` (log entry 1). -/
def offerWord (s : State) (w : CmdWord) : State :=
  { s with seq := .idle, work := .none, entOut := false, offered := none, edges := Edge.command w :: s.edges }

end Sys2Proof.Machine
end

