-- ==== Sys2Proof/Machine/Step.lean ====
section
/-! DEFINITION. One step of the machine. Everything it does is settled in Machine/Sequencer.lean and
Machine/Dispatch.lean. -/

namespace Sys2Proof.Machine

/-- One step: the next edge of the script, or, at its end, the block's own work. Each step is one event; there is
no clock (70_reset_and_hazards.md R167). -/
def step (s : State) : Host.Outcome State Fault Refusal :=
  match move s with
  | .goto t => .next t
  | .run i t => exec i t
  | .hold f => .fault f
  | .refuse r => .refused r

/-- `s` with the low `nbits` bits of `w` as the command word that the very next step accepts. -/
def State.withFetchWord (s : State) (nbits w : Nat) : State :=
  offerWord s (BitVec.ofNat 64 (w % 2 ^ nbits))

end Sys2Proof.Machine
end

