-- ==== Sys2Proof/Machine/Assembler.lean ====
section
/-! DEFINITION. The assembly syntax (30_encoding.md R69) and the pseudo-instructions (R70), from text to command
words. The block never sees text; this is the host's side of the command channel. What R69 leaves open (blank
lines, tabs, the case of hexadecimal digits) is log entry 8. -/

namespace Sys2Proof.Machine.Asm

/-- Why a line is refused. -/
inductive AsmError where
  /-- The mnemonic is none of R69 and R70. -/
  | unknownMnemonic
  /-- An operand is no decimal and no `0x` number (R69). -/
  | badNumber
  /-- The mnemonic does not take this many operands (R69, R70). -/
  | wrongOperands
  /-- "The assembler refuses an `idx` outside 0..3 and an `imm` outside 0..2^32-1" (R69). -/
  | outOfRange
  deriving DecidableEq, Repr

/-- White space inside a line. -/
def isBlank (c : Char) : Bool := c == ' ' || c == '\t' || c == '\r'

/-- A text without the white space at its two ends. -/
def trim (cs : List Char) : List Char := ((cs.dropWhile isBlank).reverse.dropWhile isBlank).reverse

/-- A text cut at every `sep`. -/
def splitAt (sep : Char) : List Char → List (List Char)
  | [] => [[]]
  | c :: cs =>
    match splitAt sep cs with
    | [] => [[c]]
    | h :: t => if c = sep then [] :: h :: t else (c :: h) :: t

/-- The value of a digit, up to 15. -/
def digitValue (c : Char) : Option Nat :=
  if 48 ≤ c.toNat ∧ c.toNat ≤ 57 then some (c.toNat - 48)
  else if 97 ≤ c.toNat ∧ c.toNat ≤ 102 then some (c.toNat - 87)
  else if 65 ≤ c.toNat ∧ c.toNat ≤ 70 then some (c.toNat - 55)
  else none

/-- Digits in a base, the most significant first, after a value already read. -/
def readDigits (base : Nat) : List Char → Nat → Option Nat
  | [], acc => some acc
  | c :: cs, acc =>
    match digitValue c with
    | some d => if d < base then readDigits base cs (base * acc + d) else none
    | none => none

/-- "Numbers are decimal, or hexadecimal with a `0x` prefix" (R69). -/
def readNumber : List Char → Option Nat
  | [] => none
  | '0' :: 'x' :: c :: cs => readDigits 16 (c :: cs) 0
  | c :: cs => readDigits 10 (c :: cs) 0

/-- The written commands a mnemonic and its operands stand for: R69, and the expansions of R70. -/
def expand (mnemonic : List Char) (ops : List Nat) : Except AsmError (List SourceCmd) :=
  let none' (cs : List SourceCmd) : Except AsmError (List SourceCmd) :=
    match ops with
    | [] => .ok cs
    | _ => .error .wrongOperands
  let one (f : Nat → List SourceCmd) : Except AsmError (List SourceCmd) :=
    match ops with
    | [a] => .ok (f a)
    | _ => .error .wrongOperands
  let two (f : Nat → Nat → List SourceCmd) : Except AsmError (List SourceCmd) :=
    match ops with
    | [a, b] => .ok (f a b)
    | _ => .error .wrongOperands
  let four (f : Nat → Nat → Nat → Nat → List SourceCmd) : Except AsmError (List SourceCmd) :=
    match ops with
    | [a, b, c, d] => .ok (f a b c d)
    | _ => .error .wrongOperands
  if mnemonic = "nop".toList then none' [.nop]
  else if mnemonic = "init".toList then none' [.init]
  else if mnemonic = "seedw".toList then two fun i v => [.seedw i v]
  else if mnemonic = "seedc".toList then none' [.seedc]
  else if mnemonic = "next".toList then none' [.next]
  else if mnemonic = "bounded".toList then one fun v => [.bounded v]
  else if mnemonic = "rdstate".toList then one fun i => [.rdstate i]
  else if mnemonic = "seed".toList then
    four fun a b c d => [.seedw 0 a, .seedw 1 b, .seedw 2 c, .seedw 3 d, .seedc]
  else if mnemonic = "random_uniform".toList then one fun v => [.bounded v]
  else if mnemonic = "next_raw".toList then none' [.next]
  else if mnemonic = "initialize".toList then none' [.init]
  else if mnemonic = "rdstate.all".toList then none' [.rdstate 0, .rdstate 1, .rdstate 2, .rdstate 3]
  else .error .unknownMnemonic

/-- The command words of written commands; one out of range is refused (R69). -/
def encodeAll : List SourceCmd → Except AsmError (List CmdWord)
  | [] => .ok []
  | c :: cs =>
    match c.toInstr, encodeAll cs with
    | some i, .ok ws => .ok (encode i :: ws)
    | some _, .error e => .error e
    | none, _ => .error .outOfRange

/-- The numbers of an operand list. -/
def readNumbers : List (List Char) → Option (List Nat)
  | [] => some []
  | t :: ts =>
    match readNumber (trim t), readNumbers ts with
    | some n, some ns => some (n :: ns)
    | _, _ => none

/-- One line (R69): text after `;` is a comment; then a mnemonic, and its operands between commas. A line with
neither holds no command. -/
def assembleLine (line : List Char) : Except AsmError (List CmdWord) :=
  let text := trim (line.takeWhile (· ≠ ';'))
  let mnemonic := text.takeWhile (fun c => !isBlank c)
  let operands := trim (text.dropWhile (fun c => !isBlank c))
  if text = [] then .ok []
  else
    match readNumbers (if operands = [] then [] else splitAt ',' operands) with
    | none => .error .badNumber
    | some ops =>
      match expand mnemonic ops with
      | .error e => .error e
      | .ok cs => encodeAll cs

/-- The words of some lines, in order. -/
def assembleLines : List (List Char) → Except AsmError (List CmdWord)
  | [] => .ok []
  | l :: ls =>
    match assembleLine l, assembleLines ls with
    | .ok ws, .ok more => .ok (ws ++ more)
    | .ok _, .error e => .error e
    | .error e, _ => .error e

/-- A text, one command per line (R69). -/
def assemble (text : List Char) : Except AsmError (List CmdWord) := assembleLines (splitAt '\n' text)

end Sys2Proof.Machine.Asm
end

