-- ==== Sys2Proof/Machine/System.lean ====
section
/-! DEFINITION. A system of several blocks (00_scope.md R5; 60_exceptions.md R144): one block is one generator
context, and blocks share no state and no signals. Each has its own input script, so its own reset input and its
own entropy port. -/

namespace Sys2Proof.Machine

/-- The blocks of a system. They have no identifiers on the chip (60_exceptions.md R144); the index only says
which copy is meant. -/
structure System where
  blocks : List State
  deriving DecidableEq, Repr

/-- N_INST blocks, each right after its reset and so uninitialized (60_exceptions.md R144; log entry 6). -/
def System.reset : System := ⟨List.replicate Config.nInst State.reset⟩

/-- One step of the block at an index. Nothing says which block moves next: there is "no defined relative
ordering" between blocks (20_memory.md R51), so a claim about a system quantifies over the index. A block that
holds stops no other. -/
def System.stepBlock (sys : System) (k : Fin sys.blocks.length) : Host.Outcome System Fault Refusal :=
  match step (sys.blocks.get k) with
  | .next t => .next ⟨sys.blocks.set k.val t⟩
  | .fault f => .fault f
  | .refused r => .refused r

end Sys2Proof.Machine
end

