-- ==== Sys2Proof/Safety.lean ====
section
/-! DEFINITION. The terms that claims use: the invariant of the block, a fault-free and a finished run
(70_reset_and_hazards.md R169), the stream of raw samples and which of them a limit rejects (41_sampler.md R107),
and what two states that differ only in unspecified registers have in common (10_state.md R28, R29). -/

namespace Sys2Proof.Machine

/-- A run whose last state has FAULT = 0 (70_reset_and_hazards.md R169). -/
def State.faultFree (s : State) : Bool := !s.fault

/-- The end of a run (70_reset_and_hazards.md R169): every command offered is accepted, every response has
transferred, SEQ = IDLE, and no reset is pending. Here the host has nothing left on offer and the script is at
its end. -/
abbrev State.Finished (s : State) : Prop := s.seq = .idle ∧ s.offered = none ∧ s.edges = []

/-- The next edge does not reset the block. -/
abbrev State.NotReset (s : State) : Prop := ∀ e rest, s.edges = e :: rest → e.rst = false

/-- The host keeps its part of the handshake at the edge `e` (20_memory.md R42, R54): a word on offer and not
transferred yet is offered again, unchanged. -/
abbrev State.OfferHeld (s : State) (e : Edge) : Prop :=
  ∀ w, s.offered = some w → e.cmdValid = true ∧ e.cmdData = w

/-- A word in RSP_PEND is a response of 60_exceptions.md R130 and R131: its FLT and SEEDED bits are those of the
state, its status is one of the five codes, and an error carries DATA 0 and DRAWS 0. -/
def State.ResponseLegal (s : State) : Prop :=
  ∃ (st : Status) (data : Word) (draws : BitVec 24),
    s.rspData = packRsp draws s.fault s.seeded st.code data ∧
    (st ≠ .ok → data = 0 ∧ draws = 0) ∧
    (s.fault = true → st = .fatalEntropy)

/-- The word the host has on offer after an edge at which none transfers (20_memory.md R42). -/
abbrev Edge.nowOffered (e : Edge) : Option CmdWord := if e.cmdValid then some e.cmdData else none

/-- None of these edges resets the block, and the host, with `o` on offer before them, keeps its part of the
handshake at each: nothing but the block's own rule ends or delays a rejection loop over them. -/
def Uninterrupted : Option CmdWord → List Edge → Prop
  | _, [] => True
  | o, e :: es =>
    e.rst = false ∧ (∀ w, o = some w → e.cmdValid = true ∧ e.cmdData = w) ∧ Uninterrupted e.nowOffered es

/-- `n` steps of the machine, stopping at the first hold or refusal. -/
def State.after (s : State) (n : Nat) : Host.Outcome State Fault Refusal := Host.Core.run Sys2Proof.core n s

/-- What holds of every state the block can be in. -/
structure State.Inv (s : State) : Prop where
  /-- ENT_OUT is 1 exactly in ENT_WAIT (20_memory.md R45, R46). -/
  entOut_iff : s.entOut = true ↔ s.seq = .entWait
  /-- No command is in progress in IDLE (10_state.md R27). -/
  idle_work : s.seq = .idle → s.work = .none
  /-- A command whose response waits has nothing left to do (20_memory.md R44). -/
  rspPend_work : s.seq = .rspPend → s.work = .none
  /-- A command in EXEC waits to issue a request or has a redraw to make (10_state.md R27). -/
  exec_work : s.seq = .exec → s.work ≠ .none
  /-- An entropy wait belongs to a command inside ENSURE_SEEDED (40_generator.md R83). -/
  entWait_work : s.seq = .entWait → ∃ k, s.work = .seeding k
  /-- ENSURE_SEEDED asks for entropy only while S == 0 (40_generator.md R83). -/
  seeding_unseeded : ∀ k, s.work = .seeding k → s.S = zeroQuad
  /-- A fault is raised only while S == 0, and no command writes S while FAULT = 1 (60_exceptions.md R135). -/
  fault_unseeded : s.fault = true → s.S = zeroQuad
  /-- No command is in progress while FAULT = 1 (60_exceptions.md R134, R135). -/
  fault_work : s.fault = true → s.work = .none
  /-- A BOUNDED past its first check has LIM != 0, so the residue unit never divides by zero (41_sampler.md R102,
  R105; 00_scope.md R8). -/
  bounded_limit : s.work = .seeding .bounded ∨ s.work = .redrawing → s.smp.lim ≠ 0
  /-- A redraw is due after a rejection in LOOP_CHECK (41_sampler.md R103, R109). -/
  redraw_due : s.work = .redrawing →
    s.smp.phase = .loopCheck ∧
    s.S ≠ zeroQuad ∧ s.draws ≠ 0 ∧ s.smp.num = mul64 s.smp.raw s.smp.lim ∧
    s.smp.residue = urem (-s.smp.lim) s.smp.lim ∧ lo32 s.smp.num < s.smp.residue
  /-- The word held on `rsp_data` is a legal response (60_exceptions.md R130, R131). -/
  response_legal : s.seq = .rspPend → s.ResponseLegal

/-- The events since the last reset, the latest first. -/
def sinceReset (trace : List Event) : List Event := trace.takeWhile (· ≠ .reset)

/-- An event is the acceptance of a command. -/
def Event.isAccepted : Event → Bool
  | .accepted _ => true
  | .entropyRequest => false
  | .response _ => false
  | .reset => false

/-- An event is the transfer of a response. -/
def Event.isResponse : Event → Bool
  | .accepted _ => false
  | .entropyRequest => false
  | .response _ => true
  | .reset => false

/-- Since the last reset, every accepted command has had its one response, but for a command in progress
(20_memory.md R43, R44). -/
abbrev State.Balanced (s : State) : Prop :=
  (sinceReset s.trace).countP Event.isAccepted =
    (sinceReset s.trace).countP Event.isResponse + (if s.seq = .idle then 0 else 1)

/-- S after `n` draws. -/
def stateAfter (q : Quad) (n : Nat) : Quad := genNext^[n] q

/-- The raw sample of draw number `n` (from 0) of the stream that starts at `q`. -/
def rawAt (q : Quad) (n : Nat) : Word := genOutput (stateAfter q n)

/-- A raw value that the limit rejects, over the natural numbers (41_sampler.md R107):
`lo32(raw * L) < 2^32 mod L`. -/
abbrev Rejects (limit raw : Nat) : Prop := raw * limit % 2 ^ 32 < 2 ^ 32 % limit

/-- DRAWS after `n` draws of one command: saturating at 0xFFFFFF (10_state.md R29). -/
def drawsAfter (n : Nat) : BitVec 24 := BitVec.ofNat 24 (min n 0xFFFFFF)

/-- The command a `Seeder` stands for; a BOUNDED has its limit latched in LIM (10_state.md R28). -/
def Seeder.instr (k : Seeder) (smp : Sampler) : Instr :=
  match k with
  | .init => .init
  | .next => .next
  | .bounded => .bounded smp.lim

/-- Two states that differ only where no rule reads before the same command has written (10_state.md R28, R29):
in the sampler registers, but LIM while a BOUNDED waits for entropy and LIM and RESIDUE while it has a redraw to
make; in DRAWS between commands; and in what stands on `rsp_data` while no response waits. -/
structure State.Agrees (s t : State) : Prop where
  S : s.S = t.S
  stage : s.stage = t.stage
  fault : s.fault = t.fault
  seq : s.seq = t.seq
  work : s.work = t.work
  entOut : s.entOut = t.entOut
  offered : s.offered = t.offered
  edges : s.edges = t.edges
  trace : s.trace = t.trace
  draws : s.work ≠ .none → s.draws = t.draws
  rspData : s.seq = .rspPend → s.rspData = t.rspData
  lim : s.work = .seeding .bounded ∨ s.work = .redrawing → s.smp.lim = t.smp.lim
  residue : s.work = .redrawing → s.smp.residue = t.smp.residue

/-- Two steps with the same outcome, next states compared by `State.Agrees`. -/
def OutcomesAgree : Host.Outcome State Fault Refusal → Host.Outcome State Fault Refusal → Prop
  | .next s, .next t => s.Agrees t
  | .fault f, .fault g => f = g
  | .refused r, .refused q => r = q
  | _, _ => False

end Sys2Proof.Machine
end

