-- ==== Sys2Proof/Certificates/Slice0/Obligations.lean ====
section
/-! DEFINITION. The statements for the provers. Each is a `def Obligations.<Name> : Prop`; its docstring names the
rule of spec/ it formalises, or the sections it rests on. A next state is written out whole wherever that is
short, so that the statement is at once the result, the frame and the completion of the instruction. The fields
`work` (log entry 3), `offered` and `edges` (entries 1 and 11) and `trace` (entry 9) are the model's form of what the
spec says in words; where a statement names one of them, that clause is the model's. -/

open Sys2Proof Sys2Proof.Machine

/-! ### Encoding -/

/-- 30_encoding.md R60, R65, R68: no bit of an encoding is dropped, for every instruction and every operand. -/
def Obligations.DecodeOfEncodeIsTheInstruction : Prop :=
  ∀ i : Instr, decode (encode i) = .ok i

/-- 30_encoding.md R67, R68: one word encodes a command, and no second word decodes to it. -/
def Obligations.DecodedWordIsTheEncoding : Prop :=
  ∀ (w : CmdWord) (i : Instr), decode w = .ok i → encode i = w

/-- 30_encoding.md R63: the table of match and mask says exactly which words encode an instruction and which row
each stands in; no word matches two rows. -/
def Obligations.WordDecodesExactlyWhenItMatchesItsRow : Prop :=
  rows = [(0x0000000000000000, 0xFFFFFFFFFFFFFFFF), (0x0000000000000001, 0xFFFFFFFFFFFFFFFF),
    (0x0000000000000002, 0x00000000FFFFFFCF), (0x0000000000000003, 0xFFFFFFFFFFFFFFFF),
    (0x0000000000000004, 0xFFFFFFFFFFFFFFFF), (0x0000000000000005, 0x00000000FFFFFFFF),
    (0x0000000000000006, 0xFFFFFFFFFFFFFFCF)] ∧
  (∀ w : CmdWord, (∃ i, decode w = .ok i) ↔ ∃ row ∈ rows, matchesRow w row = true) ∧
  (∀ (w : CmdWord) (i : Instr), decode w = .ok i → w &&& rowMask i = rowMatch i) ∧
  rows.Pairwise fun a b => ∀ w : CmdWord, ¬(matchesRow w a = true ∧ matchesRow w b = true)

/-- 30_encoding.md R65, R66: the decoder's case table, on a word given by its four fields (R60). -/
def Obligations.DecoderFollowsTheCaseTable : Prop :=
  ∀ (imm : Word) (rz : BitVec 26) (idx : Fin 4) (op : BitVec 4),
    let w : CmdWord := imm ++ rz ++ BitVec.ofFin (w := 2) idx ++ op
    (rz ≠ 0 → ∃ e, decode w = .error e) ∧
    (7 ≤ op.toNat → ∃ e, decode w = .error e) ∧
    (rz = 0 → op = 0x0 → idx = 0 → imm = 0 → decode w = .ok .nop) ∧
    (rz = 0 → op = 0x1 → idx = 0 → imm = 0 → decode w = .ok .init) ∧
    (rz = 0 → op = 0x2 → decode w = .ok (.seedw idx imm)) ∧
    (rz = 0 → op = 0x3 → idx = 0 → imm = 0 → decode w = .ok .seedc) ∧
    (rz = 0 → op = 0x4 → idx = 0 → imm = 0 → decode w = .ok .next) ∧
    (rz = 0 → op = 0x5 → idx = 0 → decode w = .ok (.bounded imm)) ∧
    (rz = 0 → op = 0x6 → imm = 0 → decode w = .ok (.rdstate idx)) ∧
    (op ∈ [0x0, 0x1, 0x3, 0x4, 0x5] → idx ≠ 0 → ∃ e, decode w = .error e) ∧
    (op ∈ [0x0, 0x1, 0x3, 0x4, 0x6] → imm ≠ 0 → ∃ e, decode w = .error e)

/-- 30_encoding.md R71: the spec's example words, each written out by the spec. -/
def Obligations.ExampleWordsEncodeAndDecode : Prop :=
  ∀ p ∈ ([(.seedw 1 1, 0x0000000100000012), (.seedc, 0x0000000000000003), (.next, 0x0000000000000004),
      (.bounded 1000, 0x000003E800000005), (.bounded 0x80000001, 0x8000000100000005),
      (.rdstate 3, 0x0000000000000036)] : List (Instr × CmdWord)),
    encode p.1 = p.2 ∧ decode p.2 = .ok p.1

/-- 30_encoding.md R61: where each field of a response word stands, and that SEEDED and FLT are those of the block
after the command. -/
def Obligations.ResponseWordFieldsStandWhereTheLayoutSays : Prop :=
  ∀ (s : State) (st : Status) (data : Word) (draws : BitVec 24),
    let t := s.respond st data draws
    let w := t.rspData
    w.extractLsb' 0 32 = data ∧ w.extractLsb' 32 4 = st.code ∧ (w.getLsbD 36 = true ↔ t.S ≠ zeroQuad) ∧
    w.getLsbD 37 = t.fault ∧ w.extractLsb' 38 2 = 0 ∧ w.extractLsb' 40 24 = draws

/-- 30_encoding.md R69, R70: each of the seven mnemonics, with its operands at the ends of their ranges, and each of
the five pseudo-instructions assembles to the words of the commands it stands for, and an operand of SEEDW, BOUNDED
or RDSTATE just out of its range is refused. The capital hexadecimal digit is the model's choice (log entry 8). -/
def Obligations.AssemblyTextGivesTheCommandWords : Prop :=
  Asm.assemble "nop\ninit\nseedw 0, 0\nseedw 3, 4294967295 ; the ends\nseedc\nnext".toList =
    .ok ([.nop, .init, .seedw 0 0, .seedw 3 0xFFFFFFFF, .seedc, .next].map encode) ∧
  Asm.assemble "bounded 0\nbounded 0xffffffff\nrdstate 0\nrdstate 3".toList =
    .ok ([.bounded 0, .bounded 0xFFFFFFFF, .rdstate 0, .rdstate 3].map encode) ∧
  Asm.assemble "seedw 4, 0".toList = .error .outOfRange ∧
  Asm.assemble "seedw 0, 4294967296".toList = .error .outOfRange ∧
  Asm.assemble "seed 1, 2, 3, 4".toList =
    .ok ([.seedw 0 1, .seedw 1 2, .seedw 2 3, .seedw 3 4, .seedc].map encode) ∧
  Asm.assemble "next_raw\ninitialize ; the source's names\nrandom_uniform 0x3E8".toList =
    .ok ([.next, .init, .bounded 1000].map encode) ∧
  Asm.assemble "rdstate.all".toList = .ok ([.rdstate 0, .rdstate 1, .rdstate 2, .rdstate 3].map encode) ∧
  Asm.assemble "rdstate 4".toList = .error .outOfRange ∧
  Asm.assemble "bounded 4294967296".toList = .error .outOfRange

/-! ### The generator -/

/-- 40_generator.md R81: the closed form of GEN_STEP. -/
def Obligations.GenStepHasTheClosedForm : Prop :=
  ∀ s0 s1 s2 s3 : Word,
    genNext ⟨s0, s1, s2, s3⟩ =
      ⟨s0 ^^^ s1 ^^^ s3, s0 ^^^ s1 ^^^ s2, s0 ^^^ s2 ^^^ (s1 <<< 9), (s1 ^^^ s3).rotateLeft 11⟩ ∧
    genOutput ⟨s0, s1, s2, s3⟩ = (s0 * 5).rotateLeft 7 * 9

/-- 40_generator.md R82 (a): the inverse of the output, and so the raw sample is 0 exactly when S[0] is. -/
def Obligations.OutputDeterminesTheFirstWord : Prop :=
  ∀ q : Quad,
    (genOutput q * 0x38E38E39).rotateRight 7 * 0xCCCCCCCD = q.w0 ∧ (genOutput q = 0 ↔ q.w0 = 0)

/-- 40_generator.md R82 (b): the transition is bijective, and zero is reached only from itself. -/
def Obligations.TransitionIsBijectiveAndZeroComesOnlyFromZero : Prop :=
  Function.Bijective genNext ∧ ∀ q, genNext q = zeroQuad ↔ q = zeroQuad

/-- The regression vector the source asks for (95_test_vectors.md V-GEN-1, V-GEN-3, V-GEN-6). -/
def Obligations.RegressionVectorsOfGenStep : Prop :=
  (genOutput ⟨1, 1, 1, 1⟩ = 0x00001680 ∧ genNext ⟨1, 1, 1, 1⟩ = ⟨1, 1, 0x200, 0⟩) ∧
  (genOutput ⟨0, 1, 0, 0⟩ = 0 ∧ genNext ⟨0, 1, 0, 0⟩ = ⟨1, 1, 0x200, 0x800⟩) ∧
  (genOutput ⟨0xFFFFFFFF, 0xFFFFFFFF, 0xFFFFFFFF, 0xFFFFFFFF⟩ = 0xFFFFEDF7 ∧
    genNext ⟨0xFFFFFFFF, 0xFFFFFFFF, 0xFFFFFFFF, 0xFFFFFFFF⟩ = ⟨0xFFFFFFFF, 0xFFFFFFFF, 0xFFFFFE00, 0⟩)

/-! ### What each command does -/

/-- 42_control.md R120 (pseudocode): NOP answers OK with the block's status and changes nothing else. -/
def Obligations.NopAnswersOkAndChangesNothingElse : Prop :=
  ∀ s : State, exec .nop s =
    .next { s with seq := .rspPend, work := .none, rspData := packRsp 0 s.fault s.seeded 0x0 0 }

/-- 40_generator.md R86: INIT on a seeded block issues no request, leaves S as it is and answers OK. -/
def Obligations.InitOnASeededBlockAnswersOk : Prop :=
  ∀ s : State, s.S ≠ zeroQuad → exec .init s =
    .next { s with seq := .rspPend, work := .none, rspData := packRsp 0 s.fault true 0x0 0 }

/-- 40_generator.md R91 with R83 and 20_memory.md R45, and 41_sampler.md R105: on an unseeded block INIT, NEXT and BOUNDED with a non-zero
limit ask for entropy, and nothing else of the block changes but LIM; the other four commands, and BOUNDED with
limit 0, never ask. -/
def Obligations.OnlyInitNextAndBoundedAskForEntropy : Prop :=
  (∀ s : State, s.S = zeroQuad →
    exec .init s = .next { s with seq := .exec, work := .seeding .init } ∧
    exec .next s = .next { s with seq := .exec, work := .seeding .next } ∧
    ∀ limit : Word, limit ≠ 0 → exec (.bounded limit) s =
      .next { s with seq := .exec, work := .seeding .bounded, smp := { s.smp with lim := limit } }) ∧
  (∀ (s t : State) (i : Instr), exec i s = .next t → t.entReqValid false = true →
    s.S = zeroQuad ∧ (i = .init ∨ i = .next ∨ ∃ limit, limit ≠ 0 ∧ i = .bounded limit))

/-- 40_generator.md R87 (pseudocode), 30_encoding.md R64: SEEDW writes one STAGE word, at every index, and
nothing else. -/
def Obligations.SeedwWritesOneStagingWord : Prop :=
  ∀ (s : State) (idx : Fin 4) (imm : Word), ∃ stage : Quad,
    exec (.seedw idx imm) s = .next
      { s with stage := stage, seq := .rspPend, work := .none, rspData := packRsp 0 s.fault s.seeded 0x0 0 } ∧
    ∀ j, wordAt stage j = if j = idx then imm else wordAt s.stage j

/-- 40_generator.md R88 (pseudocode): SEEDC copies a non-zero STAGE into S, seeded or not, and keeps STAGE. -/
def Obligations.SeedcCopiesStageIntoTheState : Prop :=
  ∀ s : State, s.stage ≠ zeroQuad → exec .seedc s =
    .next { s with S := s.stage, seq := .rspPend, work := .none, rspData := packRsp 0 s.fault true 0x0 0 }

/-- 60_exceptions.md R133: SEEDC with STAGE all zero answers ZERO_SEED and has no effect. -/
def Obligations.SeedcRefusesAnAllZeroStage : Prop :=
  ∀ s : State, s.stage = zeroQuad → exec .seedc s =
    .next { s with seq := .rspPend, work := .none, rspData := packRsp 0 s.fault s.seeded 0x3 0 }

/-- 40_generator.md R89 (pseudocode) with R81: NEXT on a seeded block returns the raw sample, steps S once and
counts one draw. -/
def Obligations.NextReturnsTheRawSampleAndStepsTheState : Prop :=
  ∀ (s : State) (s0 s1 s2 s3 : Word), s.S = ⟨s0, s1, s2, s3⟩ → s.S ≠ zeroQuad → s.draws = 0 →
    exec .next s = .next { s with
      S := ⟨s0 ^^^ s1 ^^^ s3, s0 ^^^ s1 ^^^ s2, s0 ^^^ s2 ^^^ (s1 <<< 9), (s1 ^^^ s3).rotateLeft 11⟩
      draws := 1
      seq := .rspPend
      work := .none
      rspData := packRsp 1 s.fault true 0x0 ((s0 * 5).rotateLeft 7 * 9) }

/-- 40_generator.md R90 (pseudocode): RDSTATE answers the selected S word, at every index, and changes nothing
else; it does not initialize. -/
def Obligations.RdstateAnswersTheSelectedWord : Prop :=
  ∀ s : State,
    let answered (data : Word) : Host.Outcome State Fault Refusal :=
      .next { s with seq := .rspPend, work := .none, rspData := packRsp 0 s.fault s.seeded 0x0 data }
    exec (.rdstate 0) s = answered s.S.w0 ∧ exec (.rdstate 1) s = answered s.S.w1 ∧
    exec (.rdstate 2) s = answered s.S.w2 ∧ exec (.rdstate 3) s = answered s.S.w3

/-- 60_exceptions.md R132, 41_sampler.md R105: BOUNDED with limit 0 answers LIMIT_ZERO: no request, no draw, and no
change but the latched LIM and the response. -/
def Obligations.BoundedRefusesLimitZero : Prop :=
  ∀ s : State, exec (.bounded 0) s =
    .next { s with
      smp := { s.smp with lim := 0 }
      seq := .rspPend
      work := .none
      rspData := packRsp 0 s.fault s.seeded 0x2 0 }

/-- 41_sampler.md R104 (pseudocode) with R107: on a seeded block, a first sample that the limit does not reject is
accepted at once, by the fast path or the slow one, and the response carries `floor(raw * limit / 2^32)`; the
frame is everything but S, DRAWS, the sampler registers and the response. -/
def Obligations.BoundedAcceptsAFirstSampleThatIsNotRejected : Prop :=
  ∀ (s : State) (limit : Word), s.S ≠ zeroQuad → limit ≠ 0 → s.draws = 0 →
    ¬ Rejects limit.toNat (genOutput s.S).toNat →
    ∃ smp : Sampler, exec (.bounded limit) s = .next { s with
      S := genNext s.S
      draws := 1
      smp := smp
      seq := .rspPend
      work := .none
      rspData := packRsp 1 s.fault true 0x0
        (BitVec.ofNat 32 ((genOutput s.S).toNat * limit.toNat / 2 ^ 32)) }

/-- 41_sampler.md R103, R104 (pseudocode) with R107: a first sample that the limit rejects leaves the command in
EXEC with a redraw to make, LIM latched, RESIDUE computed and PHASE at LOOP_CHECK. That the redraw is a later step is the model's choice
(log entry 2). -/
def Obligations.BoundedGoesOnAfterARejectedFirstSample : Prop :=
  ∀ (s : State) (limit : Word), s.S ≠ zeroQuad → limit ≠ 0 → s.draws = 0 →
    Rejects limit.toNat (genOutput s.S).toNat →
    ∃ smp : Sampler, smp.lim = limit ∧ smp.residue.toNat = 2 ^ 32 % limit.toNat ∧ smp.phase = .loopCheck ∧
      exec (.bounded limit) s = .next { s with
        S := genNext s.S
        draws := 1
        smp := smp
        seq := .exec
        work := .redrawing }

/-- 10_state.md R33, 41_sampler.md R112: what the step that runs a command leaves alone, up to the command's response or
its first wait for entropy or redraw (log entry 2). What a command writes of S and FAULT once its entropy has come
(R33: INIT, NEXT and BOUNDED) falls in later steps and is not said here. Every command answers a next state; in that
step none writes FAULT, ENT_OUT, the host's offer, the input script or the record; only SEEDW writes STAGE; only
BOUNDED writes the sampler registers; only SEEDC, NEXT and BOUNDED write S; only NEXT and BOUNDED write DRAWS. -/
def Obligations.EveryCommandLeavesTheRestUnchanged : Prop :=
  ∀ (i : Instr) (s : State), ∃ t, exec i s = .next t ∧
    t.fault = s.fault ∧ t.entOut = s.entOut ∧ t.offered = s.offered ∧ t.edges = s.edges ∧
    t.trace = s.trace ∧
    ((∀ idx imm, i ≠ .seedw idx imm) → t.stage = s.stage) ∧
    ((∀ limit, i ≠ .bounded limit) → t.smp = s.smp) ∧
    (i ≠ .seedc → i ≠ .next → (∀ limit, i ≠ .bounded limit) → t.S = s.S) ∧
    (i ≠ .next → (∀ limit, i ≠ .bounded limit) → t.draws = s.draws)

/-- 20_memory.md R49: NOP, RDSTATE and a repeated SEEDW are idempotent, so are SEEDC for an unchanged STAGE and INIT once
SEEDED holds: doing the command again leaves the state, the response word included, as it is. -/
def Obligations.RepeatedCommandsChangeNothingMore : Prop :=
  ∀ (s t : State) (i : Instr),
    (i = .nop ∨ (∃ idx, i = .rdstate idx) ∨ (∃ idx imm, i = .seedw idx imm) ∨ i = .seedc ∨
      (i = .init ∧ s.S ≠ zeroQuad)) →
    exec i s = .next t → exec i t = .next t

/-! ### The rejection loop -/

/-- 41_sampler.md R102: for LIM >= 1, RESIDUE = `2^32 mod LIM`, and it is below LIM. -/
def Obligations.ResidueIsTwoToThe32ModLimit : Prop :=
  ∀ limit : Word, limit ≠ 0 →
    (urem (-limit) limit).toNat = 2 ^ 32 % limit.toNat ∧ urem (-limit) limit < limit

/-- 41_sampler.md R104 (corner cases): the limits the spec works out. -/
def Obligations.BoundedCornerCases : Prop :=
  (∀ raw : Word, hi32 (mul64 raw 1) = 0 ∧ urem (-1) 1 = 0) ∧
  (∀ (k : Nat) (raw : Word), 1 ≤ k → k ≤ 31 →
    urem (-(1#32 <<< k)) (1#32 <<< k) = 0 ∧ hi32 (mul64 raw (1#32 <<< k)) = raw >>> (32 - k)) ∧
  (urem (-0xFFFFFFFF#32) 0xFFFFFFFF = 1 ∧
    ∀ raw : Word, (Rejects 0xFFFFFFFF raw.toNat ↔ raw = 0) ∧
      (raw ≠ 0 → hi32 (mul64 raw 0xFFFFFFFF) = raw - 1)) ∧
  (urem (-0x80000001#32) 0x80000001 = 0x7FFFFFFF ∧
    ∀ limit : Word, limit ≠ 0 → 2 ^ 32 % limit.toNat ≤ 0x7FFFFFFF)

/-- 41_sampler.md R106: while a BOUNDED with a non-zero limit is in progress, or as it starts, a step that ends it
with OK answers DATA below the limit and DRAWS at least 1; with limit 1 DATA is 0. -/
def Obligations.BoundedAnswersBelowTheLimit : Prop :=
  ∀ (s t : State) (limit : Word), limit ≠ 0 →
    (exec (.bounded limit) s = .next t ∨
      (step s = .next t ∧ s.smp.lim = limit ∧ s.NotReset ∧
        (s.work = .redrawing ∧ s.seq = .exec ∨ s.work = .seeding .bounded ∧ s.seq = .entWait))) →
    t.seq = .rspPend → t.rspData.extractLsb' 32 4 = 0x0 →
    t.rspData.extractLsb' 0 32 < limit ∧ t.rspData.extractLsb' 40 24 ≠ 0 ∧
      (limit = 1 → t.rspData.extractLsb' 0 32 = 0)

/-- 41_sampler.md R103, R104, R111: BOUNDED on a seeded block, whatever edges without a reset and with the handshake kept
it meets, and at the end of the script too, answers with the first sample of the stream that the limit does not
reject, whichever it is: DATA is that sample's `floor(raw * limit / 2^32)`, DRAWS counts the draws and saturates, S
has made as many steps as that many NEXT commands make, and STAGE and FAULT keep their values. That each redraw is
one step, at the next edge or with none to come, is the model's (log entries 2, 12). -/
def Obligations.BoundedAnswersWithTheFirstSampleNotRejected : Prop :=
  ∀ (s : State) (limit : Word) (n : Nat),
    s.S ≠ zeroQuad → limit ≠ 0 → s.draws = 0 → Uninterrupted s.offered (s.edges.take n) →
    (∀ m < n, Rejects limit.toNat (rawAt s.S m).toNat) → ¬ Rejects limit.toNat (rawAt s.S n).toNat →
    ∃ u t, exec (.bounded limit) s = .next u ∧ u.after n = .next t ∧
      t.seq = .rspPend ∧ t.work = .none ∧ t.S = stateAfter s.S (n + 1) ∧
      t.stage = s.stage ∧ t.fault = s.fault ∧ t.draws = drawsAfter (n + 1) ∧ t.edges = s.edges.drop n ∧
      t.trace = s.trace ∧
      t.rspData = packRsp (drawsAfter (n + 1)) s.fault true 0x0
        (BitVec.ofNat 32 ((rawAt s.S n).toNat * limit.toNat / 2 ^ 32))

/-- 41_sampler.md R108, R103: the rejection loop has no cap: as long as every sample is rejected the command stays in
progress, one draw a step, and makes no response, whatever edges without a reset and with the handshake kept it meets,
and at the end of the script too. That each redraw is one step, at the next edge or with none to come, is the model's
(log entries 2, 12). -/
def Obligations.RejectionLoopHasNoCap : Prop :=
  ∀ (s : State) (limit : Word) (n : Nat),
    s.S ≠ zeroQuad → limit ≠ 0 → s.draws = 0 → Uninterrupted s.offered (s.edges.take n) →
    (∀ m ≤ n, Rejects limit.toNat (rawAt s.S m).toNat) →
    ∃ u t, exec (.bounded limit) s = .next u ∧ u.after n = .next t ∧
      t.seq = .exec ∧ t.work = .redrawing ∧ t.S = stateAfter s.S (n + 1) ∧
      t.draws = drawsAfter (n + 1) ∧ t.edges = s.edges.drop n ∧ t.trace = s.trace

/-- 41_sampler.md R103 with 40_generator.md R80: a redraw that is due is made by one step, at an edge without a reset, or
with no edge to come. It is one GEN_STEP: RAW is its result, S its transition, and DRAWS counts it. LIM and RESIDUE
are kept, NUM is the new product and is tested against RESIDUE alone: below it the command stays in progress with a
redraw due and PHASE at LOOP_CHECK, and otherwise it answers with the high word. STAGE, FAULT and ENT_OUT are kept.
One redraw a step is the model's (log entries 2, 12). -/
def Obligations.RedrawIsOneGenStepTestedAgainstResidue : Prop :=
  ∀ s : State, s.seq = .exec → s.work = .redrawing →
    ∃ smp : Sampler, smp.lim = s.smp.lim ∧ smp.residue = s.smp.residue ∧ smp.raw = genOutput s.S ∧
      smp.num = mul64 (genOutput s.S) s.smp.lim ∧
      let drawn : State := { s with S := genNext s.S, draws := satInc s.draws, smp := smp }
      let after : State :=
        if lo32 smp.num < s.smp.residue then drawn
        else { drawn with
          seq := .rspPend
          work := .none
          rspData := packRsp (satInc s.draws) s.fault (decide (genNext s.S ≠ zeroQuad)) 0x0 (hi32 smp.num) }
      smp.phase = (if lo32 smp.num < s.smp.residue then .loopCheck else .done) ∧
      (s.edges = [] → step s = .next after) ∧
      ∀ (e : Edge) (rest : List Edge), s.edges = e :: rest → e.rst = false → s.OfferHeld e →
        step s = .next { after with edges := rest, offered := e.nowOffered }

/-- 41_sampler.md R109: the phases of one BOUNDED on a seeded block that answers with draw number `n` (from 0): DRAW,
FAST_CHECK and DONE by the fast path, and by the slow path DRAW, FAST_CHECK, RESIDUE_CALC, LOOP_CHECK, a pair of DRAW
and LOOP_CHECK for each redraw, and DONE. The DRAW phases are as many as DRAWS while DRAWS has not saturated. The
record of phases is the model's (log entry 16), and so is one redraw a step (log entries 2, 12). -/
def Obligations.SamplerPhasesFollowTheSequence : Prop :=
  ∀ (s : State) (limit : Word) (n : Nat),
    s.S ≠ zeroQuad → limit ≠ 0 → s.draws = 0 → Uninterrupted s.offered (s.edges.take n) →
    (∀ m < n, Rejects limit.toNat (rawAt s.S m).toNat) → ¬ Rejects limit.toNat (rawAt s.S n).toNat →
    ∃ u t, exec (.bounded limit) s = .next u ∧ u.after n = .next t ∧ t.seq = .rspPend ∧ t.smp.phase = .done ∧
      t.smp.phases.reverse =
        (if limit.toNat ≤ (genOutput s.S).toNat * limit.toNat % 2 ^ 32 then [.draw, .fastCheck, .done]
        else [.draw, .fastCheck, .residueCalc, .loopCheck] ++
          (List.replicate n [.draw, .loopCheck]).flatten ++ [.done]) ∧
      t.smp.phases.count .draw = n + 1 ∧ (n + 1 ≤ 0xFFFFFF → t.draws.toNat = t.smp.phases.count .draw)

/-- 41_sampler.md R107: of the 2^32 raw values, those that the sampler's comparison rejects are exactly
`2^32 mod L` in number, and each result below L has exactly `floor(2^32 / L)` accepted raw values: the sample is
without bias. -/
def Obligations.EveryResultHasEquallyManyAcceptedRawValues : Prop :=
  ∀ limit : Word, limit ≠ 0 →
    (∀ raw : Word, lo32 (mul64 raw limit) < urem (-limit) limit ↔ Rejects limit.toNat raw.toNat) ∧
    ((Finset.range (2 ^ 32)).filter fun raw => Rejects limit.toNat raw).card = 2 ^ 32 % limit.toNat ∧
    ∀ j < limit.toNat,
      ((Finset.range (2 ^ 32)).filter fun raw =>
        ¬ Rejects limit.toNat raw ∧ (hi32 (mul64 (BitVec.ofNat 32 raw) limit)).toNat = j).card =
          2 ^ 32 / limit.toNat

/-! ### Entropy -/

/-- 20_memory.md R45: the request is issued at the edge where the entropy source takes it; until then the block
keeps asking. -/
def Obligations.EntropyRequestIsIssuedWhenTaken : Prop :=
  ∀ (s : State) (e : Edge) (rest : List Edge) (k : Seeder),
    s.seq = .exec → s.work = .seeding k → s.edges = e :: rest → e.rst = false → s.OfferHeld e →
    s.entReqValid e.rst = true ∧
    ∃ t, t = (if e.entReqReady
        then { s with
          edges := rest, offered := e.nowOffered, seq := .entWait, entOut := true,
          trace := .entropyRequest :: s.trace }
        else { s with edges := rest, offered := e.nowOffered }) ∧
      step s = .next t ∧ t.entReqValid false = !e.entReqReady

/-- 20_memory.md R47: the words of a full read are its bytes, little-endian; they are all zero exactly when all 16
bytes are. -/
def Obligations.EntropyBytesFillTheWordsLittleEndian : Prop :=
  (∀ d : EntData, entWords d = zeroQuad ↔ ∀ k < 16, entByte d k = 0) ∧
  ∀ (d : EntData) (i : Fin 4),
    (wordAt (entWords d) i).toNat =
      (entByte d (4 * i)).toNat + (entByte d (4 * i + 1)).toNat * 2 ^ 8 +
      (entByte d (4 * i + 2)).toNat * 2 ^ 16 + (entByte d (4 * i + 3)).toNat * 2 ^ 24 ∧
    state128 (entWords d) = d

/-- 40_generator.md R83, 20_memory.md R46: a full read that is not all zero seeds S, and the waiting command goes on
exactly as it would on a block seeded with those words. -/
def Obligations.FullReadSeedsTheStateAndTheCommandGoesOn : Prop :=
  ∀ (s : State) (e : Edge) (rest : List Edge) (k : Seeder),
    s.seq = .entWait → s.entOut = true → s.work = .seeding k → (k = .bounded → s.smp.lim ≠ 0) →
    s.edges = e :: rest → e.rst = false → s.OfferHeld e →
    e.entRspValid = true → e.entRspCount = 16 → e.entRspData ≠ 0 →
    step s = exec (k.instr s.smp) { s with
      S := entWords e.entRspData, entOut := false, seq := .exec, edges := rest, offered := e.nowOffered }

/-- 40_generator.md R83: an all-zero full read is retried: the block asks again, and S, STAGE, FAULT and DRAWS keep
their values. -/
def Obligations.AllZeroFullReadIsRetried : Prop :=
  ∀ (s : State) (e : Edge) (rest : List Edge) (k : Seeder),
    s.seq = .entWait → s.entOut = true → s.work = .seeding k →
    s.edges = e :: rest → e.rst = false → s.OfferHeld e →
    e.entRspValid = true → e.entRspCount = 16 → e.entRspData = 0 →
    ∃ t, t = { s with entOut := false, seq := .exec, edges := rest, offered := e.nowOffered } ∧
      step s = .next t ∧ t.entReqValid false = true

/-- 60_exceptions.md R134: a short read sets FAULT and ends the command with FATAL_ENTROPY; S stays all zero, and no
further request is issued. The count is tested before the data. -/
def Obligations.ShortReadSetsTheStickyFault : Prop :=
  ∀ (s : State) (e : Edge) (rest : List Edge) (k : Seeder),
    s.seq = .entWait → s.entOut = true → s.work = .seeding k → s.S = zeroQuad →
    s.edges = e :: rest → e.rst = false → s.OfferHeld e →
    e.entRspValid = true → e.entRspCount ≠ 16 →
    ∃ t, t = { s with
        fault := true, entOut := false, seq := .rspPend, work := .none, edges := rest,
        offered := e.nowOffered, rspData := packRsp 0 true false 0xF 0 } ∧
      step s = .next t ∧ t.faultOut = true ∧ t.entReqValid false = false

/-- 20_memory.md R46: an answer that arrives while ENT_OUT = 0 is ignored, in every state and whatever else happens
at that edge: the step is the one without it. -/
def Obligations.UnaskedEntropyAnswerChangesNothing : Prop :=
  ∀ (s : State) (e : Edge) (rest : List Edge) (count : BitVec 5) (data : EntData),
    s.entOut = false →
    step { s with edges := { e with entRspValid := true, entRspCount := count, entRspData := data } :: rest } =
    step { s with edges := { e with entRspValid := false } :: rest }

/-- 20_memory.md R56: an entropy wait is a hold: without an answer and a reset the block has no step of its own. An
edge that brings neither passes and changes nothing but the script and the host's offer, and at the end of the
script there is no step; that `step` answers a named fault there is the model's choice (log entry 10). -/
def Obligations.EntropyWaitHoldsUntilTheAnswer : Prop :=
  ∀ s : State, s.seq = .entWait →
    (s.edges = [] → step s = .fault .awaitsEntropyAnswer) ∧
    (∀ (e : Edge) (rest : List Edge), s.edges = e :: rest → e.rst = false → s.OfferHeld e →
      e.entRspValid = false → step s = .next { s with edges := rest, offered := e.nowOffered }) ∧
    (∀ t, step s = .next t → t.seq ≠ .entWait → ∃ e rest, s.edges = e :: rest ∧
      (e.rst = true ∨ e.entRspValid = true ∧ s.entOut = true))

/-! ### Commands, responses and errors -/

/-- 60_exceptions.md R136, 20_memory.md R43: a word offered to a fault-free block in IDLE that decodes is run: the
step is `exec` of the instruction on the state in which the word has transferred, SEQ is EXEC and DRAWS is 0. That
the acceptance and the first part of the command are one step is the model's choice (log entry 2). -/
def Obligations.StepRunsTheDecodedCommand : Prop :=
  ∀ (s : State) (e : Edge) (rest : List Edge) (i : Instr),
    s.seq = .idle → s.fault = false → s.edges = e :: rest → e.rst = false → s.OfferHeld e →
    e.cmdValid = true → decode e.cmdData = .ok i →
    step s = exec i { s with
      seq := .exec, draws := 0, offered := none, edges := rest, trace := .accepted e.cmdData :: s.trace }

/-- 60_exceptions.md R131 with R136: a word that does not decode is answered ILLEGAL with DATA 0 and DRAWS 0, and S,
STAGE, FAULT and the entropy port are left as they are; and every error response has this form. -/
def Obligations.UndecodableWordIsAnsweredIllegal : Prop :=
  (∀ (s : State) (error : Status), s.raise error =
    { s with seq := .rspPend, work := .none, rspData := packRsp 0 s.fault s.seeded error.code 0 }) ∧
  ∀ (s : State) (e : Edge) (rest : List Edge) (r : DecodeError),
    s.seq = .idle → s.fault = false → s.edges = e :: rest → e.rst = false → s.OfferHeld e →
    e.cmdValid = true → decode e.cmdData = .error r →
    step s = .next { s with
      seq := .rspPend, work := .none, draws := 0, offered := none, edges := rest,
      trace := .accepted e.cmdData :: s.trace, rspData := packRsp 0 false s.seeded 0x1 0 }

/-- 60_exceptions.md R135: while FAULT = 1 every accepted word, even an illegal one, is answered FATAL_ENTROPY with
SEEDED 0 and FLT 1, and has no other effect (S is zero then: `State.Inv`); only a reset clears FAULT. -/
def Obligations.StickyFaultAnswersEveryCommand : Prop :=
  (∀ s t : State, s.fault = true → s.NotReset → step s = .next t → t.fault = true) ∧
  ∀ (s : State) (e : Edge) (rest : List Edge),
    s.Inv → s.fault = true → s.seq = .idle → s.edges = e :: rest → e.rst = false → s.OfferHeld e →
    e.cmdValid = true →
    step s = .next { s with
      seq := .rspPend, work := .none, draws := 0, offered := none, edges := rest,
      trace := .accepted e.cmdData :: s.trace, rspData := 0x0000002F00000000 }

/-- 10_state.md R25: FAULT becomes 1 only by a short read, and only a reset clears it. -/
def Obligations.FaultIsSetOnlyByAShortReadAndClearedOnlyByReset : Prop :=
  ∀ s t : State, step s = .next t →
    (s.fault = true → t.fault = false → ∃ e rest, s.edges = e :: rest ∧ e.rst = true) ∧
    (s.fault = false → t.fault = true → ∃ e rest k, s.edges = e :: rest ∧ s.seq = .entWait ∧
      s.work = .seeding k ∧ s.entOut = true ∧ e.entRspValid = true ∧ e.entRspCount ≠ 16)

/-- 20_memory.md R43: `cmd_ready` is 1 exactly when `rst` is 0 and SEQ = IDLE, and a command is accepted exactly at an
edge where it and `cmd_valid` are 1. -/
def Obligations.CommandIsAcceptedExactlyWhenOfferedAndReady : Prop :=
  (∀ (s : State) (rst : Bool), s.cmdReady rst = true ↔ rst = false ∧ s.seq = .idle) ∧
  ∀ (s t : State) (e : Edge) (rest : List Edge), s.edges = e :: rest → step s = .next t →
    ((∃ w, t.trace = .accepted w :: s.trace) ↔ e.cmdValid = true ∧ s.cmdReady e.rst = true) ∧
    (∀ w, t.trace = .accepted w :: s.trace → w = e.cmdData)

/-- 20_memory.md R44, R42: the response is held unchanged until the host can take it, and at that edge it transfers
and SEQ becomes IDLE. -/
def Obligations.ResponseIsHeldUntilItTransfers : Prop :=
  ∀ (s : State) (e : Edge) (rest : List Edge),
    s.seq = .rspPend → s.edges = e :: rest → e.rst = false → s.OfferHeld e →
    s.rspValid e.rst = true ∧
    step s = .next (if e.rspReady
      then { s with edges := rest, offered := e.nowOffered, seq := .idle, trace := .response s.rspData :: s.trace }
      else { s with edges := rest, offered := e.nowOffered })

/-- The machine holds exactly where the script is at its end and no redraw is due, with the reason of its SEQ; it
refuses exactly a host that breaks the handshake on the command channel (20_memory.md R42, R54, R56;
93_implementation_defined.md I6, I9). The fault at a hold and its names are the model's choice (log entry 10), and so are the refusal's form (log entry 11)
and that no move on the response channel is refused (log entry 17). -/
def Obligations.StepStopsOnlyAtHoldsAndBrokenHandshakes : Prop :=
  (∀ (s : State) (f : Fault), step s = .fault f ↔
    s.edges = [] ∧ ¬(s.seq = .exec ∧ s.work = .redrawing) ∧
    ((s.seq = .idle ∧ f = .awaitsCommand) ∨ (s.seq = .exec ∧ f = .awaitsEntropyReady) ∨
      (s.seq = .entWait ∧ f = .awaitsEntropyAnswer) ∨ (s.seq = .rspPend ∧ f = .awaitsResponseReady))) ∧
  (∀ (s : State) (r : Refusal), step s = .refused r ↔
    r = .handshakeBroken ∧ ∃ e rest, s.edges = e :: rest ∧ e.rst = false ∧ ¬ s.OfferHeld e)

/-- 70_reset_and_hazards.md R167: nothing depends on latency. At a hold, an edge at which the environment does nothing
passes and leaves everything as it was, so any number of such edges may stand between two moves of the environment.
The script of edges is the model's (log entries 1, 2). -/
def Obligations.EdgeWithoutAMoveChangesNothingAtAHold : Prop :=
  ∀ (s : State) (rest : List Edge) (n : Nat), s.offered = none → ¬(s.seq = .exec ∧ s.work = .redrawing) →
    { s with edges := List.replicate n Edge.quiet ++ rest }.after n = .next { s with edges := rest }

/-! ### Reset -/

/-- 70_reset_and_hazards.md R160, R161: an edge with `rst` = 1 puts every state item at its reset value, in every state
and whatever else happens at that edge; a command in progress gets no response. The script goes on, and the record
notes the reset. -/
def Obligations.ResetEdgePutsEveryItemAtItsResetValue : Prop :=
  ∀ (s : State) (e : Edge) (rest : List Edge), s.edges = e :: rest → e.rst = true →
    ∃ t, step s = .next t ∧ t.S = ⟨0, 0, 0, 0⟩ ∧ t.stage = ⟨0, 0, 0, 0⟩ ∧ t.fault = false ∧ t.seq = .idle ∧
      t.work = .none ∧ t.entOut = false ∧ t.draws = 0 ∧ t.edges = rest ∧ t.trace = .reset :: s.trace ∧
      s.cmdReady e.rst = false ∧ s.rspValid e.rst = false ∧ s.entReqValid e.rst = false ∧
      t.cmdReady false = true

/-- 10_state.md R32: the reset values the spec gives, and with them SEEDED, `fault` and the outputs. -/
def Obligations.ResetStateHasTheSpecsValues : Prop :=
  let s := State.reset
  s.S = ⟨0, 0, 0, 0⟩ ∧ s.stage = ⟨0, 0, 0, 0⟩ ∧ s.fault = false ∧ s.seq = .idle ∧ s.entOut = false ∧
  s.draws = 0 ∧ s.seeded = false ∧ s.faultOut = false ∧ s.cmdReady true = false ∧ s.cmdReady false = true ∧
  s.rspValid false = false ∧ s.entReqValid false = false

/-! ### The whole machine -/

/-- `State.Inv` and `State.Balanced` hold right after reset. -/
def Obligations.InvariantHoldsAtReset : Prop := State.reset.Inv ∧ State.reset.Balanced

/-- Every step keeps `State.Inv`, from every state that has it (10_state.md R22, R27, R30; 40_generator.md R83;
41_sampler.md R103; 60_exceptions.md R130, R131, R135). Its clauses about `work` are the model's (log entry 3). -/
def Obligations.EveryStepKeepsTheInvariant : Prop :=
  ∀ s t : State, s.Inv → step s = .next t → t.Inv

/-- 10_state.md R23: once SEEDED is true no command makes it false; only a reset does. -/
def Obligations.SeededStaysTrueUntilReset : Prop :=
  ∀ s t : State, step s = .next t → s.NotReset → s.S ≠ zeroQuad → t.S ≠ zeroQuad

/-- 10_state.md R24: only SEEDW writes STAGE, one word per command; without a reset STAGE keeps its value else. -/
def Obligations.StageIsWrittenOnlyBySeedw : Prop :=
  ∀ s t : State, step s = .next t → s.NotReset →
    t.stage = s.stage ∨
    ∃ (e : Edge) (rest : List Edge) (idx : Fin 4) (imm : Word),
      s.edges = e :: rest ∧ s.seq = .idle ∧ e.cmdValid = true ∧ e.cmdData = encode (.seedw idx imm) ∧
      ∀ j, wordAt t.stage j = if j = idx then imm else wordAt s.stage j

/-- 20_memory.md R44: every accepted command has exactly one response: since the last reset, the accepted commands are
the responses transferred and, while a command is in progress, one more. The record of events is the model's (log
entry 9). -/
def Obligations.EveryAcceptedCommandHasOneResponse : Prop :=
  ∀ s t : State, s.Balanced → step s = .next t → t.Balanced

/-- 10_state.md R28, R29: no rule reads a sampler register, or DRAWS, that the same command has not written: two states
that differ only there step alike, and what is observed of them stays the same. -/
def Obligations.UnspecifiedRegistersAreNeverReadBeforeWritten : Prop :=
  ∀ s t : State, s.Agrees t → OutcomesAgree (step s) (step t)

/-- 40_generator.md R88 with 30_encoding.md R70 and 70_reset_and_hazards.md R163 (c): the pseudo-instruction `seed`, sent
as its five commands to a fault-free block, leaves S and STAGE at the four words. The script of edges is the model's
(log entry 1), and so is that ten steps suffice and that the edge right after each command meets its response (log
entry 2): a chip may need more edges. -/
def Obligations.SeedSequenceLoadsTheFourWords : Prop :=
  ∀ (s : State) (a b c d : Word),
    s.seq = .idle → s.fault = false → s.offered = none → (⟨a, b, c, d⟩ : Quad) ≠ zeroQuad →
    s.edges = [Instr.seedw 0 a, .seedw 1 b, .seedw 2 c, .seedw 3 d, .seedc].flatMap
      (fun i => [Edge.command (encode i), Edge.respond]) →
    ∃ t, s.after 10 = .next t ∧ t.S = ⟨a, b, c, d⟩ ∧ t.stage = ⟨a, b, c, d⟩ ∧ t.Finished ∧ t.faultFree = true

/-- 40_generator.md R89, R91 with 70_reset_and_hazards.md R168: NEXT on an unseeded block, given an entropy source that
answers after any number of all-zero reads and a host that takes the response, ends: one request for each read, one
response, and its sample is drawn from the words read. The script of edges (log entry 1), the number of steps (log
entry 2: a chip may need more edges) and the record of events (log entry 9) are the model's. -/
def Obligations.LazyNextEndsOnceTheEnvironmentAnswers : Prop :=
  ∀ (s : State) (data : EntData) (retries : Nat),
    s.seq = .idle → s.fault = false → s.offered = none → s.S = zeroQuad → data ≠ 0 →
    s.edges = Edge.command (encode .next) ::
      ((List.replicate retries [Edge.request, Edge.answer 16 0]).flatten ++
        [Edge.request, Edge.answer 16 data, Edge.respond]) →
    ∃ t, s.after (2 * retries + 4) = .next t ∧ t.Finished ∧ t.fault = false ∧ t.stage = s.stage ∧
      t.S = genNext (entWords data) ∧
      t.trace = .response (packRsp 1 false true 0x0 (genOutput (entWords data))) ::
        (List.replicate (retries + 1) .entropyRequest ++ .accepted 0x0000000000000004 :: s.trace)

/-- 60_exceptions.md R144, 20_memory.md R51: the blocks of a system share nothing: a step of one is its own step and
leaves every other block as it was. The list of blocks and its index are the model's (log entry 6). -/
def Obligations.BlocksOfASystemShareNothing : Prop :=
  ∀ (sys : System) (k : Fin sys.blocks.length) (t : State), step (sys.blocks.get k) = .next t →
    ∃ sys', sys.stepBlock k = .next sys' ∧ sys'.blocks.length = sys.blocks.length ∧
      sys'.blocks[k.val]? = some t ∧ ∀ j, j ≠ k.val → sys'.blocks[j]? = sys.blocks[j]?
end

