-- ==== Sys2Proof/Laws/Decode.lean ====
section
/-! SUPPORT. The fields of a packed command word, and the written form of a command. -/

namespace Sys2Proof

/-- One bit of a word given by its four fields (30_encoding.md R60). -/
theorem getLsbD_fields (imm : Word) (rz : BitVec 26) (idx : BitVec 2) (op : BitVec 4) (i : Nat) :
    BitVec.getLsbD (w := 64) (imm ++ rz ++ idx ++ op) i =
      if i < 4 then op.getLsbD i else if i < 6 then idx.getLsbD (i - 4)
      else if i < 32 then rz.getLsbD (i - 6) else imm.getLsbD (i - 32) := by
  change BitVec.getLsbD (w := 32 + 26 + 2 + 4) (imm ++ rz ++ idx ++ op) i = _
  simp only [BitVec.getLsbD_append]
  by_cases c0 : i < 4
  · simp [c0]
  by_cases c1 : i < 6
  · simp [c0, c1, show i - 4 < 2 by omega]
  by_cases c2 : i < 32
  · rw [if_neg c0, if_neg c0, if_neg c1, if_pos c2, if_neg (by omega), if_pos (by omega), Nat.sub_sub]
  · simp [c0, c1, c2, show ¬ i - 4 < 2 by omega, show ¬ i - 4 - 2 < 26 by omega,
      show i - 4 - 2 - 26 = i - 32 by omega]

section fields

variable (imm : Word) (rz : BitVec 26) (idx : BitVec 2) (op : BitVec 4)

theorem opField_fields : opField (imm ++ rz ++ idx ++ op) = op := by
  apply BitVec.eq_of_getLsbD_eq
  intro i hi
  simp [opField, getLsbD_fields, hi]

theorem idxField_fields : idxField (imm ++ rz ++ idx ++ op) = idx := by
  apply BitVec.eq_of_getLsbD_eq
  intro i hi
  simp [idxField, getLsbD_fields, hi, show 4 + i < 6 by omega]

theorem rzField_fields : rzField (imm ++ rz ++ idx ++ op) = rz := by
  apply BitVec.eq_of_getLsbD_eq
  intro i hi
  simp [rzField, getLsbD_fields, hi, show ¬ 6 + i < 4 by omega, show 6 + i < 32 by omega]

theorem immField_fields : immField (imm ++ rz ++ idx ++ op) = imm := by
  apply BitVec.eq_of_getLsbD_eq
  intro i hi
  simp [immField, getLsbD_fields, hi, show ¬ 32 + i < 4 by omega, show ¬ 32 + i < 6 by omega]

@[simp] theorem opField_packCmd : opField (packCmd imm idx op) = op := opField_fields imm 0 idx op

@[simp] theorem idxField_packCmd : idxField (packCmd imm idx op) = idx := idxField_fields imm 0 idx op

@[simp] theorem rzField_packCmd : rzField (packCmd imm idx op) = 0 := rzField_fields imm 0 idx op

@[simp] theorem immField_packCmd : immField (packCmd imm idx op) = imm := immField_fields imm 0 idx op

end fields

@[simp] theorem idxOperand_packCmd (imm : Word) (idx : Fin 4) (op : BitVec 4) :
    idxOperand (packCmd imm (idxBits idx) op) = idx := by
  simp [idxOperand, idxBits]

/-- Two words with the same four fields are the same word (30_encoding.md R60). -/
theorem cmdWord_eq_of_fields {v w : CmdWord} (hop : opField v = opField w) (hidx : idxField v = idxField w)
    (hrz : rzField v = rzField w) (himm : immField v = immField w) : v = w := by
  apply BitVec.eq_of_getLsbD_eq
  intro i hi
  have e0 := congrArg (·.getLsbD i) hop
  have e1 := congrArg (·.getLsbD (i - 4)) hidx
  have e2 := congrArg (·.getLsbD (i - 6)) hrz
  have e3 := congrArg (·.getLsbD (i - 32)) himm
  simp only [opField, idxField, rzField, immField, BitVec.getLsbD_extractLsb'] at e0 e1 e2 e3
  by_cases c0 : i < 4
  · simpa [c0] using e0
  by_cases c1 : i < 6
  · simpa [show i - 4 < 2 by omega, show 4 + (i - 4) = i by omega] using e1
  by_cases c2 : i < 32
  · simpa [show i - 6 < 26 by omega, show 6 + (i - 6) = i by omega] using e2
  · simpa [show i - 32 < 32 by omega, show 32 + (i - 32) = i by omega] using e3

/-- Every command is well formed: its operands carry their ranges in their types. -/
theorem Instr.wellFormed (i : Instr) : i.WellFormed := by
  cases i with
  | seedw idx imm =>
    simp [Instr.WellFormed, Instr.toSource, SourceCmd.wellFormed, idxInRange, immInRange, imm.isLt, idx.isLt]
  | bounded limit => simp [Instr.WellFormed, Instr.toSource, SourceCmd.wellFormed, immInRange, limit.isLt]
  | rdstate idx => simp [Instr.WellFormed, Instr.toSource, SourceCmd.wellFormed, idxInRange, idx.isLt]
  | nop => rfl
  | init => rfl
  | seedc => rfl
  | next => rfl

/-- A command written out reads back as itself. -/
theorem Instr.toInstr_toSource (i : Instr) : i.toSource.toInstr = some i := by
  have h := i.wellFormed
  cases i <;> simp_all [SourceCmd.toInstr, Instr.toSource, Instr.WellFormed]

end Sys2Proof
end

