-- ==== Sys2Proof/Laws/Operands.lean ====
section
/-! SUPPORT. The arithmetic of Machine/Operands.lean over the natural numbers, the access to a word by its index,
and the words of an entropy answer. -/

namespace Sys2Proof.Machine

theorem rotl_eq_rotateLeft (a : Word) {k : Nat} (hk : k < 32) : rotl a k = a.rotateLeft k := by
  rw [BitVec.rotateLeft_def, Nat.mod_eq_of_lt hk, rotl]

theorem mul64_toNat (a b : Word) : (mul64 a b).toNat = a.toNat * b.toNat := by
  have h : a.toNat * b.toNat < 2 ^ 64 :=
    Nat.lt_of_lt_of_le (Nat.mul_lt_mul'' a.isLt b.isLt) (by decide)
  simp only [mul64, BitVec.toNat_mul, BitVec.toNat_setWidth]
  rw [Nat.mod_eq_of_lt (a := a.toNat) (by omega), Nat.mod_eq_of_lt (a := b.toNat) (by omega),
    Nat.mod_eq_of_lt h]

theorem lo32_toNat (n : DWord) : (lo32 n).toNat = n.toNat % 2 ^ 32 := by
  simp [lo32, BitVec.extractLsb'_toNat]

theorem hi32_toNat (n : DWord) : (hi32 n).toNat = n.toNat / 2 ^ 32 := by
  have := n.isLt
  simp only [hi32, BitVec.extractLsb'_toNat, Nat.shiftRight_eq_div_pow]
  omega

theorem urem_toNat (a : Word) {b : Word} (h : b ≠ 0) : (urem a b).toNat = a.toNat % b.toNat := by
  rw [urem, if_neg h, BitVec.toNat_umod]

/-- The tentative result is below the limit (41_sampler.md R100). -/
theorem hi32_mul64_lt (raw : Word) {limit : Word} (h : limit ≠ 0) : hi32 (mul64 raw limit) < limit := by
  have hl : 0 < limit.toNat := by
    rcases Nat.eq_zero_or_pos limit.toNat with h0 | h0
    · exact absurd (BitVec.eq_of_toNat_eq h0) h
    · exact h0
  rw [BitVec.lt_def, hi32_toNat, mul64_toNat]
  exact Nat.div_lt_of_lt_mul (Nat.mul_lt_mul_of_pos_right raw.isLt hl)

@[simp] theorem wordAt_setWordAt (q : Quad) (i j : Fin 4) (v : Word) :
    wordAt (setWordAt q i v) j = if j = i then v else wordAt q j := by
  fin_cases i <;> fin_cases j <;> rfl

/-- Four words are equal when they are equal at every index. -/
theorem quad_eq_of_wordAt {q r : Quad} (h : ∀ i, wordAt q i = wordAt r i) : q = r := by
  have h0 := h 0
  have h1 := h 1
  have h2 := h 2
  have h3 := h 3
  cases q; cases r
  simp_all [wordAt]

theorem entWords_eq_zero {d : EntData} : entWords d = zeroQuad ↔ d = 0 := by
  constructor
  · intro h
    simp only [entWords, zeroQuad, Quad.mk.injEq] at h
    obtain ⟨h0, h1, h2, h3⟩ := h
    ext i hi
    have e0 := fun k => congrArg (·.getLsbD k) h0
    have e1 := fun k => congrArg (·.getLsbD k) h1
    have e2 := fun k => congrArg (·.getLsbD k) h2
    have e3 := fun k => congrArg (·.getLsbD k) h3
    simp only [BitVec.getLsbD_extractLsb'] at e0 e1 e2 e3
    rw [← BitVec.getLsbD_eq_getElem]
    by_cases c0 : i < 32
    · simpa [c0] using e0 i
    by_cases c1 : i < 64
    · simpa [show i - 32 < 32 by omega, show 32 + (i - 32) = i by omega] using e1 (i - 32)
    by_cases c2 : i < 96
    · simpa [show i - 64 < 32 by omega, show 64 + (i - 64) = i by omega] using e2 (i - 64)
    · simpa [show i - 96 < 32 by omega, show 96 + (i - 96) = i by omega] using e3 (i - 96)
  · rintro rfl
    decide

/-- A draw always counts: DRAWS is not 0 after one (10_state.md R29). -/
theorem satInc_ne_zero (d : BitVec 24) : satInc d ≠ 0 := by
  unfold satInc Config.drawsMax
  split
  · decide
  · bv_omega

/-- DRAWS saturates (10_state.md R29). -/
theorem satInc_toNat (d : BitVec 24) : (satInc d).toNat = min (d.toNat + 1) 0xFFFFFF := by
  unfold satInc Config.drawsMax
  split
  · next h => simp [h]
  · next h =>
    have := d.isLt
    have hne : d.toNat ≠ 0xFFFFFF := fun e => h (BitVec.eq_of_toNat_eq e)
    have h1 : (1 : BitVec 24).toNat = 1 := rfl
    rw [BitVec.toNat_add, h1]
    omega

end Sys2Proof.Machine
end

