-- ==== Sys2Proof/Laws/State.lean ====
section
/-! SUPPORT. One lemma for each field of State under each update, so that no later proof unfolds a record update,
and the equations of the response word under them. -/

namespace Sys2Proof.Machine

section samplerEnter

variable (r : Sampler) (p : Phase)

@[simp] theorem samplerEnter_lim : (r.enter p).lim = r.lim := rfl
@[simp] theorem samplerEnter_raw : (r.enter p).raw = r.raw := rfl
@[simp] theorem samplerEnter_num : (r.enter p).num = r.num := rfl
@[simp] theorem samplerEnter_residue : (r.enter p).residue = r.residue := rfl
@[simp] theorem samplerEnter_phase : (r.enter p).phase = p := rfl
@[simp] theorem samplerEnter_phases : (r.enter p).phases = p :: r.phases := rfl

end samplerEnter

section respond

variable (s : State) (st : Status) (d : Word) (n : BitVec 24)

@[simp] theorem respond_S : (s.respond st d n).S = s.S := rfl
@[simp] theorem respond_stage : (s.respond st d n).stage = s.stage := rfl
@[simp] theorem respond_fault : (s.respond st d n).fault = s.fault := rfl
@[simp] theorem respond_seq : (s.respond st d n).seq = .rspPend := rfl
@[simp] theorem respond_work : (s.respond st d n).work = .none := rfl
@[simp] theorem respond_entOut : (s.respond st d n).entOut = s.entOut := rfl
@[simp] theorem respond_draws : (s.respond st d n).draws = s.draws := rfl
@[simp] theorem respond_smp : (s.respond st d n).smp = s.smp := rfl
@[simp] theorem respond_rspData : (s.respond st d n).rspData = s.rspWord st d n := rfl
@[simp] theorem respond_offered : (s.respond st d n).offered = s.offered := rfl
@[simp] theorem respond_edges : (s.respond st d n).edges = s.edges := rfl
@[simp] theorem respond_trace : (s.respond st d n).trace = s.trace := rfl

end respond

section raise

variable (s : State) (e : Status)

@[simp] theorem raise_S : (s.raise e).S = s.S := rfl
@[simp] theorem raise_stage : (s.raise e).stage = s.stage := rfl
@[simp] theorem raise_fault : (s.raise e).fault = s.fault := rfl
@[simp] theorem raise_seq : (s.raise e).seq = .rspPend := rfl
@[simp] theorem raise_work : (s.raise e).work = .none := rfl
@[simp] theorem raise_entOut : (s.raise e).entOut = s.entOut := rfl
@[simp] theorem raise_draws : (s.raise e).draws = s.draws := rfl
@[simp] theorem raise_smp : (s.raise e).smp = s.smp := rfl
@[simp] theorem raise_rspData : (s.raise e).rspData = s.rspWord e 0 0 := rfl
@[simp] theorem raise_offered : (s.raise e).offered = s.offered := rfl
@[simp] theorem raise_edges : (s.raise e).edges = s.edges := rfl
@[simp] theorem raise_trace : (s.raise e).trace = s.trace := rfl

end raise

section shortRead

variable (s : State)

@[simp] theorem shortRead_S : (s.shortRead).S = s.S := rfl
@[simp] theorem shortRead_stage : (s.shortRead).stage = s.stage := rfl
@[simp] theorem shortRead_fault : (s.shortRead).fault = true := rfl
@[simp] theorem shortRead_seq : (s.shortRead).seq = .rspPend := rfl
@[simp] theorem shortRead_work : (s.shortRead).work = .none := rfl
@[simp] theorem shortRead_entOut : (s.shortRead).entOut = s.entOut := rfl
@[simp] theorem shortRead_draws : (s.shortRead).draws = s.draws := rfl
@[simp] theorem shortRead_smp : (s.shortRead).smp = s.smp := rfl
@[simp] theorem shortRead_rspData : (s.shortRead).rspData = packRsp 0 true s.seeded 0xF 0 := rfl
@[simp] theorem shortRead_offered : (s.shortRead).offered = s.offered := rfl
@[simp] theorem shortRead_edges : (s.shortRead).edges = s.edges := rfl
@[simp] theorem shortRead_trace : (s.shortRead).trace = s.trace := rfl

end shortRead

section genStep

variable (s : State)

@[simp] theorem genStep_S : (s.genStep).S = genNext s.S := rfl
@[simp] theorem genStep_stage : (s.genStep).stage = s.stage := rfl
@[simp] theorem genStep_fault : (s.genStep).fault = s.fault := rfl
@[simp] theorem genStep_seq : (s.genStep).seq = s.seq := rfl
@[simp] theorem genStep_work : (s.genStep).work = s.work := rfl
@[simp] theorem genStep_entOut : (s.genStep).entOut = s.entOut := rfl
@[simp] theorem genStep_draws : (s.genStep).draws = satInc s.draws := rfl
@[simp] theorem genStep_smp : (s.genStep).smp = s.smp := rfl
@[simp] theorem genStep_rspData : (s.genStep).rspData = s.rspData := rfl
@[simp] theorem genStep_offered : (s.genStep).offered = s.offered := rfl
@[simp] theorem genStep_edges : (s.genStep).edges = s.edges := rfl
@[simp] theorem genStep_trace : (s.genStep).trace = s.trace := rfl

end genStep

section enter

variable (s : State) (p : Phase)

@[simp] theorem enter_S : (s.enter p).S = s.S := rfl
@[simp] theorem enter_stage : (s.enter p).stage = s.stage := rfl
@[simp] theorem enter_fault : (s.enter p).fault = s.fault := rfl
@[simp] theorem enter_seq : (s.enter p).seq = s.seq := rfl
@[simp] theorem enter_work : (s.enter p).work = s.work := rfl
@[simp] theorem enter_entOut : (s.enter p).entOut = s.entOut := rfl
@[simp] theorem enter_draws : (s.enter p).draws = s.draws := rfl
@[simp] theorem enter_smp : (s.enter p).smp = s.smp.enter p := rfl
@[simp] theorem enter_rspData : (s.enter p).rspData = s.rspData := rfl
@[simp] theorem enter_offered : (s.enter p).offered = s.offered := rfl
@[simp] theorem enter_edges : (s.enter p).edges = s.edges := rfl
@[simp] theorem enter_trace : (s.enter p).trace = s.trace := rfl

end enter

section sampleDraw

variable (s : State)

@[simp] theorem sampleDraw_S : (s.sampleDraw).S = genNext s.S := rfl
@[simp] theorem sampleDraw_stage : (s.sampleDraw).stage = s.stage := rfl
@[simp] theorem sampleDraw_fault : (s.sampleDraw).fault = s.fault := rfl
@[simp] theorem sampleDraw_seq : (s.sampleDraw).seq = s.seq := rfl
@[simp] theorem sampleDraw_work : (s.sampleDraw).work = s.work := rfl
@[simp] theorem sampleDraw_entOut : (s.sampleDraw).entOut = s.entOut := rfl
@[simp] theorem sampleDraw_draws : (s.sampleDraw).draws = satInc s.draws := rfl
@[simp] theorem sampleDraw_smp : (s.sampleDraw).smp =
    { s.smp.enter .draw with raw := genOutput s.S, num := mul64 (genOutput s.S) s.smp.lim } := rfl
@[simp] theorem sampleDraw_rspData : (s.sampleDraw).rspData = s.rspData := rfl
@[simp] theorem sampleDraw_offered : (s.sampleDraw).offered = s.offered := rfl
@[simp] theorem sampleDraw_edges : (s.sampleDraw).edges = s.edges := rfl
@[simp] theorem sampleDraw_trace : (s.sampleDraw).trace = s.trace := rfl

end sampleDraw

section sampleDone

variable (s : State)

@[simp] theorem sampleDone_S : (s.sampleDone).S = s.S := rfl
@[simp] theorem sampleDone_stage : (s.sampleDone).stage = s.stage := rfl
@[simp] theorem sampleDone_fault : (s.sampleDone).fault = s.fault := rfl
@[simp] theorem sampleDone_seq : (s.sampleDone).seq = .rspPend := rfl
@[simp] theorem sampleDone_work : (s.sampleDone).work = .none := rfl
@[simp] theorem sampleDone_entOut : (s.sampleDone).entOut = s.entOut := rfl
@[simp] theorem sampleDone_draws : (s.sampleDone).draws = s.draws := rfl
@[simp] theorem sampleDone_smp : (s.sampleDone).smp = s.smp.enter .done := rfl
@[simp] theorem sampleDone_rspData : (s.sampleDone).rspData = s.rspWord .ok (hi32 s.smp.num) s.draws := rfl
@[simp] theorem sampleDone_offered : (s.sampleDone).offered = s.offered := rfl
@[simp] theorem sampleDone_edges : (s.sampleDone).edges = s.edges := rfl
@[simp] theorem sampleDone_trace : (s.sampleDone).trace = s.trace := rfl

end sampleDone

section residueCalc

variable (s : State)

@[simp] theorem residueCalc_S : (s.residueCalc).S = s.S := rfl
@[simp] theorem residueCalc_stage : (s.residueCalc).stage = s.stage := rfl
@[simp] theorem residueCalc_fault : (s.residueCalc).fault = s.fault := rfl
@[simp] theorem residueCalc_seq : (s.residueCalc).seq = s.seq := rfl
@[simp] theorem residueCalc_work : (s.residueCalc).work = s.work := rfl
@[simp] theorem residueCalc_entOut : (s.residueCalc).entOut = s.entOut := rfl
@[simp] theorem residueCalc_draws : (s.residueCalc).draws = s.draws := rfl
@[simp] theorem residueCalc_smp : (s.residueCalc).smp =
    { s.smp.enter .residueCalc with residue := urem (-s.smp.lim) s.smp.lim } := rfl
@[simp] theorem residueCalc_rspData : (s.residueCalc).rspData = s.rspData := rfl
@[simp] theorem residueCalc_offered : (s.residueCalc).offered = s.offered := rfl
@[simp] theorem residueCalc_edges : (s.residueCalc).edges = s.edges := rfl
@[simp] theorem residueCalc_trace : (s.residueCalc).trace = s.trace := rfl

end residueCalc

section rawSample

variable (s : State)

@[simp] theorem rawSample_S : (s.rawSample).S = genNext s.S := rfl
@[simp] theorem rawSample_stage : (s.rawSample).stage = s.stage := rfl
@[simp] theorem rawSample_fault : (s.rawSample).fault = s.fault := rfl
@[simp] theorem rawSample_seq : (s.rawSample).seq = .rspPend := rfl
@[simp] theorem rawSample_work : (s.rawSample).work = .none := rfl
@[simp] theorem rawSample_entOut : (s.rawSample).entOut = s.entOut := rfl
@[simp] theorem rawSample_draws : (s.rawSample).draws = satInc s.draws := rfl
@[simp] theorem rawSample_smp : (s.rawSample).smp = s.smp := rfl
@[simp] theorem rawSample_rspData : (s.rawSample).rspData =
    s.genStep.rspWord .ok (genOutput s.S) (satInc s.draws) := rfl
@[simp] theorem rawSample_offered : (s.rawSample).offered = s.offered := rfl
@[simp] theorem rawSample_edges : (s.rawSample).edges = s.edges := rfl
@[simp] theorem rawSample_trace : (s.rawSample).trace = s.trace := rfl

end rawSample

section askEntropy

variable (s : State) (k : Seeder)

@[simp] theorem askEntropy_S : (s.askEntropy k).S = s.S := rfl
@[simp] theorem askEntropy_stage : (s.askEntropy k).stage = s.stage := rfl
@[simp] theorem askEntropy_fault : (s.askEntropy k).fault = s.fault := rfl
@[simp] theorem askEntropy_seq : (s.askEntropy k).seq = .exec := rfl
@[simp] theorem askEntropy_work : (s.askEntropy k).work = .seeding k := rfl
@[simp] theorem askEntropy_entOut : (s.askEntropy k).entOut = s.entOut := rfl
@[simp] theorem askEntropy_draws : (s.askEntropy k).draws = s.draws := rfl
@[simp] theorem askEntropy_smp : (s.askEntropy k).smp = s.smp := rfl
@[simp] theorem askEntropy_rspData : (s.askEntropy k).rspData = s.rspData := rfl
@[simp] theorem askEntropy_offered : (s.askEntropy k).offered = s.offered := rfl
@[simp] theorem askEntropy_edges : (s.askEntropy k).edges = s.edges := rfl
@[simp] theorem askEntropy_trace : (s.askEntropy k).trace = s.trace := rfl

end askEntropy

section issueRequest

variable (s : State)

@[simp] theorem issueRequest_S : (s.issueRequest).S = s.S := rfl
@[simp] theorem issueRequest_stage : (s.issueRequest).stage = s.stage := rfl
@[simp] theorem issueRequest_fault : (s.issueRequest).fault = s.fault := rfl
@[simp] theorem issueRequest_seq : (s.issueRequest).seq = .entWait := rfl
@[simp] theorem issueRequest_work : (s.issueRequest).work = s.work := rfl
@[simp] theorem issueRequest_entOut : (s.issueRequest).entOut = true := rfl
@[simp] theorem issueRequest_draws : (s.issueRequest).draws = s.draws := rfl
@[simp] theorem issueRequest_smp : (s.issueRequest).smp = s.smp := rfl
@[simp] theorem issueRequest_rspData : (s.issueRequest).rspData = s.rspData := rfl
@[simp] theorem issueRequest_offered : (s.issueRequest).offered = s.offered := rfl
@[simp] theorem issueRequest_edges : (s.issueRequest).edges = s.edges := rfl
@[simp] theorem issueRequest_trace : (s.issueRequest).trace = .entropyRequest :: s.trace := rfl

end issueRequest

section transfer

variable (s : State)

@[simp] theorem transfer_S : (s.transfer).S = s.S := rfl
@[simp] theorem transfer_stage : (s.transfer).stage = s.stage := rfl
@[simp] theorem transfer_fault : (s.transfer).fault = s.fault := rfl
@[simp] theorem transfer_seq : (s.transfer).seq = .idle := rfl
@[simp] theorem transfer_work : (s.transfer).work = s.work := rfl
@[simp] theorem transfer_entOut : (s.transfer).entOut = s.entOut := rfl
@[simp] theorem transfer_draws : (s.transfer).draws = s.draws := rfl
@[simp] theorem transfer_smp : (s.transfer).smp = s.smp := rfl
@[simp] theorem transfer_rspData : (s.transfer).rspData = s.rspData := rfl
@[simp] theorem transfer_offered : (s.transfer).offered = s.offered := rfl
@[simp] theorem transfer_edges : (s.transfer).edges = s.edges := rfl
@[simp] theorem transfer_trace : (s.transfer).trace = .response s.rspData :: s.trace := rfl

end transfer

section accept

variable (s : State) (w : CmdWord)

@[simp] theorem accept_S : (s.accept w).S = s.S := rfl
@[simp] theorem accept_stage : (s.accept w).stage = s.stage := rfl
@[simp] theorem accept_fault : (s.accept w).fault = s.fault := rfl
@[simp] theorem accept_seq : (s.accept w).seq = .exec := rfl
@[simp] theorem accept_work : (s.accept w).work = s.work := rfl
@[simp] theorem accept_entOut : (s.accept w).entOut = s.entOut := rfl
@[simp] theorem accept_draws : (s.accept w).draws = 0 := rfl
@[simp] theorem accept_smp : (s.accept w).smp = s.smp := rfl
@[simp] theorem accept_rspData : (s.accept w).rspData = s.rspData := rfl
@[simp] theorem accept_offered : (s.accept w).offered = none := rfl
@[simp] theorem accept_edges : (s.accept w).edges = s.edges := rfl
@[simp] theorem accept_trace : (s.accept w).trace = .accepted w :: s.trace := rfl

end accept

section resetEdge

variable (s : State)

@[simp] theorem resetEdge_S : (s.resetEdge).S = zeroQuad := rfl
@[simp] theorem resetEdge_stage : (s.resetEdge).stage = zeroQuad := rfl
@[simp] theorem resetEdge_fault : (s.resetEdge).fault = false := rfl
@[simp] theorem resetEdge_seq : (s.resetEdge).seq = .idle := rfl
@[simp] theorem resetEdge_work : (s.resetEdge).work = .none := rfl
@[simp] theorem resetEdge_entOut : (s.resetEdge).entOut = false := rfl
@[simp] theorem resetEdge_draws : (s.resetEdge).draws = 0 := rfl
@[simp] theorem resetEdge_smp : (s.resetEdge).smp = Sampler.reset := rfl
@[simp] theorem resetEdge_rspData : (s.resetEdge).rspData = 0 := rfl
@[simp] theorem resetEdge_offered : (s.resetEdge).offered = none := rfl
@[simp] theorem resetEdge_edges : (s.resetEdge).edges = s.edges := rfl
@[simp] theorem resetEdge_trace : (s.resetEdge).trace = .reset :: s.trace := rfl

end resetEdge

section noteOffer

variable (s : State) (e : Edge)

@[simp] theorem noteOffer_S : (noteOffer s e).S = s.S := rfl
@[simp] theorem noteOffer_stage : (noteOffer s e).stage = s.stage := rfl
@[simp] theorem noteOffer_fault : (noteOffer s e).fault = s.fault := rfl
@[simp] theorem noteOffer_seq : (noteOffer s e).seq = s.seq := rfl
@[simp] theorem noteOffer_work : (noteOffer s e).work = s.work := rfl
@[simp] theorem noteOffer_entOut : (noteOffer s e).entOut = s.entOut := rfl
@[simp] theorem noteOffer_draws : (noteOffer s e).draws = s.draws := rfl
@[simp] theorem noteOffer_smp : (noteOffer s e).smp = s.smp := rfl
@[simp] theorem noteOffer_rspData : (noteOffer s e).rspData = s.rspData := rfl
@[simp] theorem noteOffer_offered : (noteOffer s e).offered =
    if e.cmdValid then some e.cmdData else none := rfl
@[simp] theorem noteOffer_edges : (noteOffer s e).edges = s.edges := rfl
@[simp] theorem noteOffer_trace : (noteOffer s e).trace = s.trace := rfl

end noteOffer

section offerWord

variable (s : State) (w : CmdWord)

@[simp] theorem offerWord_S : (offerWord s w).S = s.S := rfl
@[simp] theorem offerWord_stage : (offerWord s w).stage = s.stage := rfl
@[simp] theorem offerWord_fault : (offerWord s w).fault = s.fault := rfl
@[simp] theorem offerWord_seq : (offerWord s w).seq = .idle := rfl
@[simp] theorem offerWord_work : (offerWord s w).work = .none := rfl
@[simp] theorem offerWord_entOut : (offerWord s w).entOut = false := rfl
@[simp] theorem offerWord_draws : (offerWord s w).draws = s.draws := rfl
@[simp] theorem offerWord_smp : (offerWord s w).smp = s.smp := rfl
@[simp] theorem offerWord_rspData : (offerWord s w).rspData = s.rspData := rfl
@[simp] theorem offerWord_offered : (offerWord s w).offered = none := rfl
@[simp] theorem offerWord_edges : (offerWord s w).edges = Edge.command w :: s.edges := rfl
@[simp] theorem offerWord_trace : (offerWord s w).trace = s.trace := rfl

end offerWord

/-- Two states are equal when their fields are. -/
theorem State.eq_of_fields {s t : State} (hS : s.S = t.S) (hstage : s.stage = t.stage) (hfault : s.fault = t.fault)
    (hseq : s.seq = t.seq) (hwork : s.work = t.work) (hent : s.entOut = t.entOut) (hdraws : s.draws = t.draws)
    (hsmp : s.smp = t.smp) (hrsp : s.rspData = t.rspData) (hoff : s.offered = t.offered)
    (hedges : s.edges = t.edges) (htrace : s.trace = t.trace) : s = t := by
  cases s; cases t; simp_all

/-- SEEDED is `S != 0` (10_state.md R22). -/
@[simp] theorem seeded_eq_true {s : State} : s.seeded = true ↔ s.S ≠ zeroQuad := by simp [State.seeded]

@[simp] theorem seeded_eq_false {s : State} : s.seeded = false ↔ s.S = zeroQuad := by simp [State.seeded]

/-- The response word depends on FAULT and S alone. -/
theorem rspWord_congr {s t : State} (hf : s.fault = t.fault) (hS : s.S = t.S) (st : Status) (d : Word)
    (n : BitVec 24) : s.rspWord st d n = t.rspWord st d n := by
  simp [State.rspWord, State.seeded, hf, hS]

theorem rspWord_of_seeded {s : State} (h : s.S ≠ zeroQuad) (st : Status) (d : Word) (n : BitVec 24) :
    s.rspWord st d n = packRsp n s.fault true st.code d := by
  simp [State.rspWord, State.seeded, h]

theorem rspWord_of_unseeded {s : State} (h : s.S = zeroQuad) (st : Status) (d : Word) (n : BitVec 24) :
    s.rspWord st d n = packRsp n s.fault false st.code d := by
  simp [State.rspWord, State.seeded, h]

end Sys2Proof.Machine
end

