-- ==== Sys2Proof/Laws/Ops.lean ====
section
/-! SUPPORT. What each shared operation of Machine/Ops.lean can do, said once: the sampler's two checks, the first
sample and the redraw, and ENSURE_SEEDED. -/

namespace Sys2Proof.Machine

section checks

variable (s : State)

/-- LOOP_CHECK rejects: a redraw is due. -/
theorem loopCheck_rejects (h : lo32 s.smp.num < s.smp.residue) : s.loopCheck =
    { s.enter .loopCheck with seq := .exec, work := .redrawing } := if_pos h

/-- LOOP_CHECK accepts. -/
theorem loopCheck_accepts (h : ¬ lo32 s.smp.num < s.smp.residue) : s.loopCheck = (s.enter .loopCheck).sampleDone :=
  if_neg h

/-- The fast path: no residue is computed. -/
theorem fastCheck_accepts (h : ¬ lo32 s.smp.num < s.smp.lim) : s.fastCheck = (s.enter .fastCheck).sampleDone :=
  if_neg h

/-- The slow path. -/
theorem fastCheck_slow (h : lo32 s.smp.num < s.smp.lim) : s.fastCheck = (s.enter .fastCheck).residueCalc.loopCheck :=
  if_pos h

/-- LOOP_CHECK leaves the command with a redraw to make, or ends it with its response. -/
theorem loopCheck_cases :
    (lo32 s.smp.num < s.smp.residue ∧ s.loopCheck.seq = .exec ∧ s.loopCheck.work = .redrawing ∧
      s.loopCheck.smp = s.smp.enter .loopCheck ∧ s.loopCheck.rspData = s.rspData) ∨
    (¬ lo32 s.smp.num < s.smp.residue ∧ s.loopCheck = (s.enter .loopCheck).sampleDone) := by
  by_cases h : lo32 s.smp.num < s.smp.residue
  · exact .inl ⟨h, by simp [loopCheck_rejects s h]⟩
  · exact .inr ⟨h, loopCheck_accepts s h⟩

@[simp] theorem loopCheck_S : s.loopCheck.S = s.S := by
  simp only [State.loopCheck]; split <;> rfl

@[simp] theorem loopCheck_stage : s.loopCheck.stage = s.stage := by
  simp only [State.loopCheck]; split <;> rfl

@[simp] theorem loopCheck_fault : s.loopCheck.fault = s.fault := by
  simp only [State.loopCheck]; split <;> rfl

@[simp] theorem loopCheck_entOut : s.loopCheck.entOut = s.entOut := by
  simp only [State.loopCheck]; split <;> rfl

@[simp] theorem loopCheck_draws : s.loopCheck.draws = s.draws := by
  simp only [State.loopCheck]; split <;> rfl

@[simp] theorem loopCheck_offered : s.loopCheck.offered = s.offered := by
  simp only [State.loopCheck]; split <;> rfl

@[simp] theorem loopCheck_edges : s.loopCheck.edges = s.edges := by
  simp only [State.loopCheck]; split <;> rfl

@[simp] theorem loopCheck_trace : s.loopCheck.trace = s.trace := by
  simp only [State.loopCheck]; split <;> rfl

@[simp] theorem loopCheck_lim : s.loopCheck.smp.lim = s.smp.lim := by
  simp only [State.loopCheck]; split <;> rfl

@[simp] theorem loopCheck_raw : s.loopCheck.smp.raw = s.smp.raw := by
  simp only [State.loopCheck]; split <;> rfl

@[simp] theorem loopCheck_num : s.loopCheck.smp.num = s.smp.num := by
  simp only [State.loopCheck]; split <;> rfl

@[simp] theorem loopCheck_residue : s.loopCheck.smp.residue = s.smp.residue := by
  simp only [State.loopCheck]; split <;> rfl

@[simp] theorem fastCheck_S : s.fastCheck.S = s.S := by
  simp only [State.fastCheck]; split <;> simp

@[simp] theorem fastCheck_stage : s.fastCheck.stage = s.stage := by
  simp only [State.fastCheck]; split <;> simp

@[simp] theorem fastCheck_fault : s.fastCheck.fault = s.fault := by
  simp only [State.fastCheck]; split <;> simp

@[simp] theorem fastCheck_entOut : s.fastCheck.entOut = s.entOut := by
  simp only [State.fastCheck]; split <;> simp

@[simp] theorem fastCheck_draws : s.fastCheck.draws = s.draws := by
  simp only [State.fastCheck]; split <;> simp

@[simp] theorem fastCheck_offered : s.fastCheck.offered = s.offered := by
  simp only [State.fastCheck]; split <;> simp

@[simp] theorem fastCheck_edges : s.fastCheck.edges = s.edges := by
  simp only [State.fastCheck]; split <;> simp

@[simp] theorem fastCheck_trace : s.fastCheck.trace = s.trace := by
  simp only [State.fastCheck]; split <;> simp

end checks

section draws

variable (s : State)

/-- A first sample accepted by the fast path (41_sampler.md R101, R109). -/
theorem firstSample_fast (h : ¬ lo32 (mul64 (genOutput s.S) s.smp.lim) < s.smp.lim) : s.firstSample =
    ({ s with smp := { s.smp with phases := [] } }.sampleDraw.enter .fastCheck).sampleDone :=
  fastCheck_accepts _ h

/-- A first sample accepted by the slow path (41_sampler.md R102, R103, R109). -/
theorem firstSample_slow (h : lo32 (mul64 (genOutput s.S) s.smp.lim) < s.smp.lim)
    (hr : ¬ lo32 (mul64 (genOutput s.S) s.smp.lim) < urem (-s.smp.lim) s.smp.lim) : s.firstSample =
    (({ s with smp := { s.smp with phases := [] } }.sampleDraw.enter .fastCheck).residueCalc.enter
      .loopCheck).sampleDone :=
  (fastCheck_slow _ h).trans (loopCheck_accepts _ hr)

/-- A first sample rejected: a redraw is due (41_sampler.md R103). -/
theorem firstSample_rejects (h : lo32 (mul64 (genOutput s.S) s.smp.lim) < s.smp.lim)
    (hr : lo32 (mul64 (genOutput s.S) s.smp.lim) < urem (-s.smp.lim) s.smp.lim) : s.firstSample =
    { ({ s with smp := { s.smp with phases := [] } }.sampleDraw.enter .fastCheck).residueCalc.enter .loopCheck with
      seq := .exec, work := .redrawing } :=
  (fastCheck_slow _ h).trans (loopCheck_rejects _ hr)

@[simp] theorem firstSample_stage : s.firstSample.stage = s.stage := by simp [State.firstSample]

@[simp] theorem firstSample_fault : s.firstSample.fault = s.fault := by simp [State.firstSample]

@[simp] theorem firstSample_entOut : s.firstSample.entOut = s.entOut := by simp [State.firstSample]

@[simp] theorem firstSample_offered : s.firstSample.offered = s.offered := by simp [State.firstSample]

@[simp] theorem firstSample_edges : s.firstSample.edges = s.edges := by simp [State.firstSample]

@[simp] theorem firstSample_trace : s.firstSample.trace = s.trace := by simp [State.firstSample]

@[simp] theorem firstSample_S : s.firstSample.S = genNext s.S := by simp [State.firstSample]

@[simp] theorem firstSample_draws : s.firstSample.draws = satInc s.draws := by simp [State.firstSample]

/-- A redraw that LOOP_CHECK rejects: another is due (41_sampler.md R103). -/
theorem redraw_rejects (h : lo32 (mul64 (genOutput s.S) s.smp.lim) < s.smp.residue) : s.redraw =
    { s.sampleDraw.enter .loopCheck with seq := .exec, work := .redrawing } :=
  loopCheck_rejects s.sampleDraw h

/-- A redraw that LOOP_CHECK accepts: the command answers (41_sampler.md R103, R104). -/
theorem redraw_accepts (h : ¬ lo32 (mul64 (genOutput s.S) s.smp.lim) < s.smp.residue) :
    s.redraw = (s.sampleDraw.enter .loopCheck).sampleDone :=
  loopCheck_accepts s.sampleDraw h

/-- A redraw neither reads nor writes the script and the host's offer. -/
theorem redraw_environment (o : Option CmdWord) (es : List Edge) :
    { s with offered := o, edges := es }.redraw = { s.redraw with offered := o, edges := es } := by
  by_cases h : lo32 (mul64 (genOutput s.S) s.smp.lim) < s.smp.residue
  · rw [redraw_rejects s h, redraw_rejects { s with offered := o, edges := es } h]
    rfl
  · rw [redraw_accepts s h, redraw_accepts { s with offered := o, edges := es } h]
    rfl

@[simp] theorem redraw_lim : s.redraw.smp.lim = s.smp.lim := by simp [State.redraw]

@[simp] theorem redraw_residue : s.redraw.smp.residue = s.smp.residue := by simp [State.redraw]

@[simp] theorem redraw_stage : s.redraw.stage = s.stage := by simp [State.redraw]

@[simp] theorem redraw_fault : s.redraw.fault = s.fault := by simp [State.redraw]

@[simp] theorem redraw_entOut : s.redraw.entOut = s.entOut := by simp [State.redraw]

@[simp] theorem redraw_offered : s.redraw.offered = s.offered := by simp [State.redraw]

@[simp] theorem redraw_edges : s.redraw.edges = s.edges := by simp [State.redraw]

@[simp] theorem redraw_trace : s.redraw.trace = s.trace := by simp [State.redraw]

@[simp] theorem redraw_S : s.redraw.S = genNext s.S := by simp [State.redraw]

@[simp] theorem redraw_draws : s.redraw.draws = satInc s.draws := by simp [State.redraw]

end draws

section seeding

variable (s : State) (k : Seeder)

/-- On a seeded block ENSURE_SEEDED does nothing (40_generator.md R83). -/
theorem ensureSeeded_of_seeded (h : s.S ≠ zeroQuad) : s.ensureSeeded k = s.resume k := by
  rw [State.ensureSeeded, if_neg h]

/-- On an unseeded block ENSURE_SEEDED asks for entropy (40_generator.md R83). -/
theorem ensureSeeded_of_unseeded (h : s.S = zeroQuad) : s.ensureSeeded k = s.askEntropy k := by
  rw [State.ensureSeeded, if_pos h]

/-- A short read, whatever its data (40_generator.md R83). -/
theorem useAnswer_short {c : BitVec 5} (h : c ≠ Config.entropyBytes) (d : EntData) :
    s.useAnswer k c d = s.shortRead := by
  rw [State.useAnswer, if_pos h]

/-- An all-zero full read. -/
theorem useAnswer_zero : s.useAnswer k Config.entropyBytes 0 = s.askEntropy k := by
  rw [State.useAnswer, if_neg (by simp), if_pos (entWords_eq_zero.mpr rfl)]

/-- A full read that is not all zero. -/
theorem useAnswer_full {d : EntData} (h : d ≠ 0) :
    s.useAnswer k Config.entropyBytes d = { s with S := entWords d }.resume k := by
  rw [State.useAnswer, if_neg (by simp), if_neg (fun e => h (entWords_eq_zero.mp e))]

/-- An answer to a command inside ENSURE_SEEDED. -/
theorem takeAnswer_of_seeding (h : s.work = .seeding k) (c : BitVec 5) (d : EntData) :
    s.takeAnswer c d = { s with entOut := false, seq := .exec }.useAnswer k c d := by
  simp only [State.takeAnswer, h]

@[simp] theorem resume_stage : (s.resume k).stage = s.stage := by cases k <;> simp [State.resume]

@[simp] theorem resume_fault : (s.resume k).fault = s.fault := by cases k <;> simp [State.resume]

@[simp] theorem resume_entOut : (s.resume k).entOut = s.entOut := by cases k <;> simp [State.resume]

@[simp] theorem resume_offered : (s.resume k).offered = s.offered := by cases k <;> simp [State.resume]

@[simp] theorem resume_edges : (s.resume k).edges = s.edges := by cases k <;> simp [State.resume]

@[simp] theorem resume_trace : (s.resume k).trace = s.trace := by cases k <;> simp [State.resume]

@[simp] theorem ensureSeeded_stage : (s.ensureSeeded k).stage = s.stage := by
  unfold State.ensureSeeded; split <;> simp

@[simp] theorem ensureSeeded_fault : (s.ensureSeeded k).fault = s.fault := by
  unfold State.ensureSeeded; split <;> simp

@[simp] theorem ensureSeeded_entOut : (s.ensureSeeded k).entOut = s.entOut := by
  unfold State.ensureSeeded; split <;> simp

@[simp] theorem ensureSeeded_offered : (s.ensureSeeded k).offered = s.offered := by
  unfold State.ensureSeeded; split <;> simp

@[simp] theorem ensureSeeded_edges : (s.ensureSeeded k).edges = s.edges := by
  unfold State.ensureSeeded; split <;> simp

@[simp] theorem ensureSeeded_trace : (s.ensureSeeded k).trace = s.trace := by
  unfold State.ensureSeeded; split <;> simp

end seeding

end Sys2Proof.Machine
end

