-- ==== Sys2Proof/Laws/Meanings.lean ====
section
/-! SUPPORT. The meaning of each command as one equation, guards included. -/

namespace Sys2Proof.Machine

variable (s : State)

theorem exec_nop : exec .nop s = .next (s.respond .ok 0 0) := rfl

theorem exec_init : exec .init s = .next (s.ensureSeeded .init) := rfl

theorem exec_seedw (idx : Fin 4) (imm : Word) :
    exec (.seedw idx imm) s = .next ({ s with stage := setWordAt s.stage idx imm }.respond .ok 0 0) := rfl

theorem exec_seedc_zero (h : s.stage = zeroQuad) : exec .seedc s = .next (s.raise .zeroSeed) := by
  simp only [exec, execSeedc, if_pos h]

theorem exec_seedc_commits (h : s.stage ≠ zeroQuad) :
    exec .seedc s = .next ({ s with S := s.stage }.respond .ok 0 0) := by
  simp only [exec, execSeedc, if_neg h]

theorem exec_next : exec .next s = .next (s.ensureSeeded .next) := rfl

theorem exec_bounded_zero :
    exec (.bounded 0) s = .next ({ s with smp := { s.smp with lim := 0 } }.raise .limitZero) := rfl

theorem exec_bounded {limit : Word} (h : limit ≠ 0) :
    exec (.bounded limit) s = .next ({ s with smp := { s.smp with lim := limit } }.ensureSeeded .bounded) := by
  simp only [exec, execBounded, if_neg h]

theorem exec_rdstate (idx : Fin 4) : exec (.rdstate idx) s = .next (s.respond .ok (wordAt s.S idx) 0) := rfl

end Sys2Proof.Machine
end

