-- ==== Sys2Proof/Laws/PerInstr.lean ====
section
/-! SUPPORT. Statements made instruction by instruction (LAWS.json). -/

namespace Sys2Proof.Laws.EncodingRow

/-- The encoded word matches the instruction's own row of the table of 30_encoding.md R63: the fields its opcode does
not use, and RZ, are zero. -/
def Statement (i : Instr) : Prop := encode i &&& rowMask i = rowMatch i

/-- A packed word under a mask that is given field by field. -/
theorem packCmd_and (imm imm' : Word) (idx idx' : BitVec 2) (op op' : BitVec 4) (rz : BitVec 26) :
    packCmd imm idx op &&& (imm' ++ rz ++ idx' ++ op') =
      packCmd (imm &&& imm') (idx &&& idx') (op &&& op') := by
  apply BitVec.eq_of_getLsbD_eq
  intro i _
  simp only [packCmd, BitVec.getLsbD_and, getLsbD_fields, BitVec.getLsbD_zero]
  split_ifs <;> simp

theorem nop : Statement .nop := rfl

theorem init : Statement .init := rfl

theorem seedw (idx : Fin 4) (imm : Word) : Statement (.seedw idx imm) := by
  have h : rowMask (.seedw idx imm) = 0#32 ++ 0x3FFFFFF#26 ++ 0#2 ++ 0xF#4 := rfl
  rw [Statement, h, encode, packCmd_and, BitVec.and_zero, BitVec.and_zero]
  rfl

theorem seedc : Statement .seedc := rfl

theorem next : Statement .next := rfl

theorem bounded (limit : Word) : Statement (.bounded limit) := by
  have h : rowMask (.bounded limit) = 0#32 ++ 0x3FFFFFF#26 ++ 3#2 ++ 0xF#4 := rfl
  rw [Statement, h, encode, packCmd_and, BitVec.and_zero]
  rfl

theorem rdstate (idx : Fin 4) : Statement (.rdstate idx) := by
  have h : rowMask (.rdstate idx) = 0xFFFFFFFF#32 ++ 0x3FFFFFF#26 ++ 0#2 ++ 0xF#4 := rfl
  rw [Statement, h, encode, packCmd_and, BitVec.and_zero]
  rfl

end Sys2Proof.Laws.EncodingRow
end

