-- ==== Sys2Proof/Laws/Response.lean ====
section
/-! SUPPORT. One bit of a response word, and the observation under each event. -/

namespace Sys2Proof.Machine

/-- One bit of a response word (30_encoding.md R61). -/
theorem getLsbD_packRsp (draws : BitVec 24) (flt seeded : Bool) (status : BitVec 4) (data : Word) (i : Nat) :
    (packRsp draws flt seeded status data).getLsbD i =
      if i < 32 then data.getLsbD i else if i < 36 then status.getLsbD (i - 32)
      else if i < 37 then seeded else if i < 38 then flt else if i < 40 then false
      else draws.getLsbD (i - 40) := by
  change BitVec.getLsbD (w := 24 + 2 + 1 + 1 + 4 + 32)
    (draws ++ 0#2 ++ BitVec.ofBool flt ++ BitVec.ofBool seeded ++ status ++ data) i = _
  simp only [BitVec.getLsbD_append, BitVec.getLsbD_zero, BitVec.getLsbD_ofBool]
  by_cases c0 : i < 32
  · simp [c0]
  by_cases c1 : i < 36
  · rw [if_neg c0, if_neg c0, if_pos c1, if_pos (by omega)]
  by_cases c2 : i < 37
  · rw [if_neg c0, if_neg c0, if_neg c1, if_pos c2, if_neg (by omega), if_pos (by omega)]
    simp [show i - 32 - 4 = 0 by omega]
  by_cases c3 : i < 38
  · rw [if_neg c0, if_neg c0, if_neg c1, if_neg c2, if_pos c3, if_neg (by omega), if_neg (by omega),
      if_pos (by omega)]
    simp [show i - 32 - 4 - 1 = 0 by omega]
  by_cases c4 : i < 40
  · rw [if_neg c0, if_neg c0, if_neg c1, if_neg c2, if_neg c3, if_pos c4, if_neg (by omega), if_neg (by omega),
      if_neg (by omega), if_pos (by omega)]
  · rw [if_neg c0, if_neg c0, if_neg c1, if_neg c2, if_neg c3, if_neg c4, if_neg (by omega), if_neg (by omega),
      if_neg (by omega), if_neg (by omega)]
    simp only [Nat.sub_sub]

@[simp] theorem sinceReset_accepted (w : CmdWord) (l : List Event) :
    sinceReset (.accepted w :: l) = .accepted w :: sinceReset l := rfl

@[simp] theorem sinceReset_entropyRequest (l : List Event) :
    sinceReset (.entropyRequest :: l) = .entropyRequest :: sinceReset l := rfl

@[simp] theorem sinceReset_response (w : RspWord) (l : List Event) :
    sinceReset (.response w :: l) = .response w :: sinceReset l := rfl

@[simp] theorem sinceReset_reset (l : List Event) : sinceReset (.reset :: l) = [] := rfl

/-- The stream from the state after one draw. -/
theorem stateAfter_succ (q : Quad) (n : Nat) : stateAfter q (n + 1) = stateAfter (genNext q) n := rfl

theorem rawAt_zero (q : Quad) : rawAt q 0 = genOutput q := rfl

theorem rawAt_succ (q : Quad) (n : Nat) : rawAt q (n + 1) = rawAt (genNext q) n := rfl

/-- DRAWS after one draw more (10_state.md R29). -/
theorem satInc_drawsAfter (n : Nat) : satInc (drawsAfter n) = drawsAfter (n + 1) := by
  apply BitVec.eq_of_toNat_eq
  have h : ∀ m, (drawsAfter m).toNat = min m 0xFFFFFF := by
    intro m
    rw [drawsAfter, BitVec.toNat_ofNat]
    omega
  rw [satInc_toNat, h, h]
  omega

end Sys2Proof.Machine
end

