-- ==== Sys2Proof/Laws/Step.lean ====
section
/-! SUPPORT. What one step does, said once: at the end of the script, at an edge with reset, and at an edge in each
state of the sequencer. A proof about `step` cites these and does not unfold the sequencer. -/

namespace Sys2Proof.Machine

/-- The sequencer's test of the handshake is the duty of 20_memory.md R54. -/
theorem handshakeKept_iff {s : State} {e : Edge} : handshakeKept s e = true ↔ s.OfferHeld e := by
  unfold handshakeKept State.OfferHeld
  cases s.offered with
  | none => simp
  | some w => simp

/-- The script is at its end and a redraw is due. -/
theorem step_redraws {s : State} (he : s.edges = []) (hq : s.seq = .exec) (hw : s.work = .redrawing) :
    step s = .next s.redraw := by
  simp [step, move, quietMove, he, hq, hw]

/-- The script is at its end and nothing is left to do: the block holds. -/
theorem step_holds {s : State} (he : s.edges = []) (h : ¬(s.seq = .exec ∧ s.work = .redrawing)) :
    step s = .fault (holdReason s.seq) := by
  have hm : quietMove s = .hold (holdReason s.seq) := by
    unfold quietMove
    split
    · next hq hw => exact absurd ⟨hq, hw⟩ h
    · rfl
  simp [step, move, he, hm]

section edge

variable {s : State} {e : Edge} {rest : List Edge} (he : s.edges = e :: rest)

include he

/-- An edge with `rst` = 1. -/
theorem step_reset (hr : e.rst = true) : step s = .next { s with edges := rest }.resetEdge := by
  simp [step, move, he, hr]

/-- The host broke the handshake. -/
theorem step_refuses (hr : e.rst = false) (h : ¬ s.OfferHeld e) : step s = .refused .handshakeBroken := by
  have hk : handshakeKept s e = false := Bool.eq_false_iff.mpr (mt handshakeKept_iff.mp h)
  simp [step, move, he, hr, hk]

variable (hr : e.rst = false) (hk : s.OfferHeld e)

include hr hk

/-- IDLE with no command offered. -/
theorem step_idle_quiet (hq : s.seq = .idle) (hv : e.cmdValid = false) :
    step s = .next { s with edges := rest } := by
  simp [step, move, he, hr, handshakeKept_iff.mpr hk, edgeMove, hq, hv]

/-- IDLE with a command offered to a faulted block. -/
theorem step_accept_faulted (hq : s.seq = .idle) (hv : e.cmdValid = true) (hf : s.fault = true) :
    step s = .next (({ s with edges := rest }.accept e.cmdData).raise .fatalEntropy) := by
  simp [step, move, he, hr, handshakeKept_iff.mpr hk, edgeMove, hq, hv, prologue, hf]

/-- IDLE with a word offered that does not decode. -/
theorem step_accept_illegal (hq : s.seq = .idle) (hv : e.cmdValid = true) (hf : s.fault = false)
    {r : DecodeError} (hd : decode e.cmdData = .error r) :
    step s = .next (({ s with edges := rest }.accept e.cmdData).raise .illegal) := by
  simp [step, move, he, hr, handshakeKept_iff.mpr hk, edgeMove, hq, hv, prologue, hf, hd]

/-- IDLE with a command offered to a fault-free block: the command runs. -/
theorem step_accept_runs (hq : s.seq = .idle) (hv : e.cmdValid = true) (hf : s.fault = false)
    {i : Instr} (hd : decode e.cmdData = .ok i) :
    step s = exec i ({ s with edges := rest }.accept e.cmdData) := by
  simp [step, move, he, hr, handshakeKept_iff.mpr hk, edgeMove, hq, hv, prologue, hf, hd]

/-- EXEC, whatever the command has to do. -/
theorem step_exec_edge (hq : s.seq = .exec) :
    step s = .next (execEdge (noteOffer { s with edges := rest } e) e) := by
  simp [step, move, he, hr, handshakeKept_iff.mpr hk, edgeMove, hq]

/-- EXEC with nothing to do. -/
theorem step_exec_none (hq : s.seq = .exec) (hw : s.work = .none) :
    step s = .next (noteOffer { s with edges := rest } e) := by
  simp [step, move, he, hr, handshakeKept_iff.mpr hk, edgeMove, hq, execEdge, hw]

/-- EXEC inside EntropyDraw(), and the entropy source takes the request. -/
theorem step_exec_issue {k : Seeder} (hq : s.seq = .exec) (hw : s.work = .seeding k)
    (hv : e.entReqReady = true) :
    step s = .next (noteOffer { s with edges := rest } e).issueRequest := by
  simp [step, move, he, hr, handshakeKept_iff.mpr hk, edgeMove, hq, execEdge, hw, hv]

/-- EXEC inside EntropyDraw(), and the entropy source does not take the request. -/
theorem step_exec_wait {k : Seeder} (hq : s.seq = .exec) (hw : s.work = .seeding k)
    (hv : e.entReqReady = false) :
    step s = .next (noteOffer { s with edges := rest } e) := by
  simp [step, move, he, hr, handshakeKept_iff.mpr hk, edgeMove, hq, execEdge, hw, hv]

/-- EXEC with a redraw due. -/
theorem step_exec_redraw (hq : s.seq = .exec) (hw : s.work = .redrawing) :
    step s = .next (noteOffer { s with edges := rest } e).redraw := by
  simp [step, move, he, hr, handshakeKept_iff.mpr hk, edgeMove, hq, execEdge, hw]

/-- ENT_WAIT, and the answer comes. -/
theorem step_entWait_answer (hq : s.seq = .entWait) (hv : e.entRspValid = true) (ho : s.entOut = true) :
    step s = .next ((noteOffer { s with edges := rest } e).takeAnswer e.entRspCount e.entRspData) := by
  simp [step, move, he, hr, handshakeKept_iff.mpr hk, edgeMove, hq, hv, ho]

/-- ENT_WAIT, and no answer counts. -/
theorem step_entWait_wait (hq : s.seq = .entWait) (h : (e.entRspValid && s.entOut) = false) :
    step s = .next (noteOffer { s with edges := rest } e) := by
  simp only [step, move, he, hr, handshakeKept_iff.mpr hk, edgeMove, hq, h]
  rfl

/-- RSP_PEND, and the host takes the response. -/
theorem step_rspPend_transfer (hq : s.seq = .rspPend) (hv : e.rspReady = true) :
    step s = .next (noteOffer { s with edges := rest } e).transfer := by
  simp [step, move, he, hr, handshakeKept_iff.mpr hk, edgeMove, hq, hv]

/-- RSP_PEND, and the host does not take the response. -/
theorem step_rspPend_wait (hq : s.seq = .rspPend) (hv : e.rspReady = false) :
    step s = .next (noteOffer { s with edges := rest } e) := by
  simp [step, move, he, hr, handshakeKept_iff.mpr hk, edgeMove, hq, hv]

end edge

/-- One redraw, at the next edge or with none to come, where nothing interrupts it: the whole of the step, and that
nothing interrupts the edges after it. -/
theorem step_redraw_uninterrupted {s : State} {n : Nat} (hq : s.seq = .exec) (hw : s.work = .redrawing)
    (hu : Uninterrupted s.offered (s.edges.take (n + 1))) :
    ∃ o, step s = .next { s.redraw with offered := o, edges := s.edges.drop 1 } ∧
      Uninterrupted o ((s.edges.drop 1).take n) := by
  cases he : s.edges with
  | nil =>
    refine ⟨s.offered, ?_, by simp [Uninterrupted]⟩
    rw [step_redraws he hq hw, ← redraw_environment, List.drop_nil, ← he]
  | cons e rest =>
    rw [he, List.take_succ_cons] at hu
    exact ⟨e.nowOffered, (step_exec_redraw he hu.1 hu.2.1 hq hw).trans (congrArg _ (redraw_environment s _ rest)), hu.2.2⟩

/-- What a step from `s` to `t` has done: the whole of it, guards included. -/
inductive StepCase (s t : State) : Prop where
  /-- The script is at its end, and a redraw is made. -/
  | redraws (he : s.edges = []) (hq : s.seq = .exec) (hw : s.work = .redrawing) (ht : t = s.redraw)
  /-- An edge with `rst` = 1. -/
  | reset (e : Edge) (rest : List Edge) (he : s.edges = e :: rest) (hr : e.rst = true)
      (ht : t = { s with edges := rest }.resetEdge)
  /-- IDLE, no command offered. -/
  | quiet (e : Edge) (rest : List Edge) (he : s.edges = e :: rest) (hr : e.rst = false) (hk : s.OfferHeld e)
      (hq : s.seq = .idle) (hv : e.cmdValid = false) (ht : t = { s with edges := rest })
  /-- A word accepted by a faulted block. -/
  | faulted (e : Edge) (rest : List Edge) (he : s.edges = e :: rest) (hr : e.rst = false) (hk : s.OfferHeld e)
      (hq : s.seq = .idle) (hv : e.cmdValid = true) (hf : s.fault = true)
      (ht : t = ({ s with edges := rest }.accept e.cmdData).raise .fatalEntropy)
  /-- A word accepted that does not decode. -/
  | illegal (e : Edge) (rest : List Edge) (he : s.edges = e :: rest) (hr : e.rst = false) (hk : s.OfferHeld e)
      (hq : s.seq = .idle) (hv : e.cmdValid = true) (hf : s.fault = false) (r : DecodeError)
      (hd : decode e.cmdData = .error r) (ht : t = ({ s with edges := rest }.accept e.cmdData).raise .illegal)
  /-- A command accepted and run. -/
  | runs (e : Edge) (rest : List Edge) (he : s.edges = e :: rest) (hr : e.rst = false) (hk : s.OfferHeld e)
      (hq : s.seq = .idle) (hv : e.cmdValid = true) (hf : s.fault = false) (i : Instr)
      (hd : decode e.cmdData = .ok i) (hx : exec i ({ s with edges := rest }.accept e.cmdData) = .next t)
  /-- An edge in EXEC. -/
  | execEdge (e : Edge) (rest : List Edge) (he : s.edges = e :: rest) (hr : e.rst = false) (hk : s.OfferHeld e)
      (hq : s.seq = .exec) (ht : t = Machine.execEdge (noteOffer { s with edges := rest } e) e)
  /-- The entropy answer. -/
  | answer (e : Edge) (rest : List Edge) (he : s.edges = e :: rest) (hr : e.rst = false) (hk : s.OfferHeld e)
      (hq : s.seq = .entWait) (hv : e.entRspValid = true) (ho : s.entOut = true)
      (ht : t = (noteOffer { s with edges := rest } e).takeAnswer e.entRspCount e.entRspData)
  /-- The response transfers. -/
  | transfer (e : Edge) (rest : List Edge) (he : s.edges = e :: rest) (hr : e.rst = false) (hk : s.OfferHeld e)
      (hq : s.seq = .rspPend) (hv : e.rspReady = true)
      (ht : t = (noteOffer { s with edges := rest } e).transfer)
  /-- An edge that passes a hold of ENT_WAIT or RSP_PEND. -/
  | waits (e : Edge) (rest : List Edge) (he : s.edges = e :: rest) (hr : e.rst = false) (hk : s.OfferHeld e)
      (hq : s.seq = .entWait ∧ (e.entRspValid && s.entOut) = false ∨ s.seq = .rspPend ∧ e.rspReady = false)
      (ht : t = noteOffer { s with edges := rest } e)

/-- A step that answers a next state is one of the cases of `StepCase`. -/
theorem step_next_cases {s t : State} (h : step s = .next t) : StepCase s t := by
  cases he : s.edges with
  | nil =>
    by_cases hh : s.seq = .exec ∧ s.work = .redrawing
    · rw [step_redraws he hh.1 hh.2, Host.Outcome.next.injEq] at h
      exact .redraws he hh.1 hh.2 h.symm
    · rw [step_holds he hh] at h
      cases h
  | cons e rest =>
    cases hr : e.rst with
    | true =>
      rw [step_reset he hr, Host.Outcome.next.injEq] at h
      exact .reset e rest he hr h.symm
    | false =>
      by_cases hk : s.OfferHeld e
      · cases hq : s.seq with
        | idle =>
          cases hv : e.cmdValid with
          | false =>
            rw [step_idle_quiet he hr hk hq hv, Host.Outcome.next.injEq] at h
            exact .quiet e rest he hr hk hq hv h.symm
          | true =>
            cases hf : s.fault with
            | true =>
              rw [step_accept_faulted he hr hk hq hv hf, Host.Outcome.next.injEq] at h
              exact .faulted e rest he hr hk hq hv hf h.symm
            | false =>
              cases hd : decode e.cmdData with
              | error r =>
                rw [step_accept_illegal he hr hk hq hv hf hd, Host.Outcome.next.injEq] at h
                exact .illegal e rest he hr hk hq hv hf r hd h.symm
              | ok i =>
                rw [step_accept_runs he hr hk hq hv hf hd] at h
                exact .runs e rest he hr hk hq hv hf i hd h
        | exec =>
          rw [step_exec_edge he hr hk hq, Host.Outcome.next.injEq] at h
          exact .execEdge e rest he hr hk hq h.symm
        | entWait =>
          cases ha : e.entRspValid && s.entOut with
          | false =>
            rw [step_entWait_wait he hr hk hq ha, Host.Outcome.next.injEq] at h
            exact .waits e rest he hr hk (.inl ⟨hq, ha⟩) h.symm
          | true =>
            rw [Bool.and_eq_true] at ha
            rw [step_entWait_answer he hr hk hq ha.1 ha.2, Host.Outcome.next.injEq] at h
            exact .answer e rest he hr hk hq ha.1 ha.2 h.symm
        | rspPend =>
          cases hv : e.rspReady with
          | false =>
            rw [step_rspPend_wait he hr hk hq hv, Host.Outcome.next.injEq] at h
            exact .waits e rest he hr hk (.inr ⟨hq, hv⟩) h.symm
          | true =>
            rw [step_rspPend_transfer he hr hk hq hv, Host.Outcome.next.injEq] at h
            exact .transfer e rest he hr hk hq hv h.symm
      · rw [step_refuses he hr hk] at h
        cases h

/-- `after` no steps. -/
@[simp] theorem after_zero (s : State) : s.after 0 = .next s := rfl

/-- `after` one step more. -/
theorem after_succ {s t : State} (h : step s = .next t) (n : Nat) : s.after (n + 1) = t.after n := by
  have hc : Host.Core.step Sys2Proof.core s = .next t := h
  simp only [State.after, Host.Core.run, hc]
  rfl

end Sys2Proof.Machine
end

