-- ==== Sys2Proof/Tests/Slice0.lean ====
section
/-! SUPPORT. The model's own tests. Every expected value is one of the spec's: an example of a rule, or a vector of
95_test_vectors.md, named at the test. The witnesses at the end show, for each statement with hypotheses, a state
and operands that meet all of them together. -/

namespace Sys2Proof.Tests

open Sys2Proof.Machine

/-! ### Decoding: words written out from the bit patterns of 30_encoding.md R68 -/

/-- IMM, RZ, IDX and OP, written out as bits from the most significant one down (R68). -/
def bits (imm : Nat) (rz : Nat) (idx : Nat) (op : Nat) : CmdWord := BitVec.ofNat 64 (imm * 2 ^ 32 + rz * 64 + idx * 16 + op)

theorem test_decode_nop : decode (bits 0 0 0b00 0b0000) = .ok .nop := by rfl

theorem test_decode_init : decode (bits 0 0 0b00 0b0001) = .ok .init := by rfl

/-- V-DEC-10. -/
theorem test_decode_seedw : decode (bits 0xFFFFFFFF 0 0b11 0b0010) = .ok (.seedw 3 0xFFFFFFFF) := by rfl

theorem test_decode_seedc : decode (bits 0 0 0b00 0b0011) = .ok .seedc := by rfl

theorem test_decode_next : decode (bits 0 0 0b00 0b0100) = .ok .next := by rfl

/-- V-DEC-11: BOUNDED with IMM = 0 is a legal encoding. -/
theorem test_decode_bounded :
    decode (bits 0 0 0b00 0b0101) = .ok (.bounded 0) ∧
    decode (bits 0x80000001 0 0b00 0b0101) = .ok (.bounded 0x80000001) := ⟨rfl, rfl⟩

theorem test_decode_rdstate : decode (bits 0 0 0b11 0b0110) = .ok (.rdstate 3) := by rfl

/-- V-DEC-2 to V-DEC-9: each check of the decoder refuses by name. -/
theorem test_decode_refuses :
    decode 0x0000000100000000 = .error .immNonZero ∧
    decode 0x0000000000000007 = .error .reservedOpcode ∧
    decode 0x000000000000000F = .error .reservedOpcode ∧
    decode 0x0000000000000014 = .error .idxNonZero ∧
    decode 0x0000000000000044 = .error .rzNonZero ∧
    decode 0x0000000080000006 = .error .rzNonZero ∧
    decode 0x0000000100000006 = .error .immNonZero ∧
    decode 0x0000000000000015 = .error .idxNonZero := ⟨rfl, rfl, rfl, rfl, rfl, rfl, rfl, rfl⟩

/-- 30_encoding.md R71. -/
theorem test_encode_examples :
    encode (.seedw 1 1) = 0x0000000100000012 ∧ encode (.bounded 1000) = 0x000003E800000005 ∧
    encode (.rdstate 3) = 0x0000000000000036 := ⟨rfl, rfl, rfl⟩

theorem test_table_word_decodes : decodeTableWord 64 0x36 = some (.rdstate 3) := by rfl

/-! ### Well-formedness: one ill-formed command for each check (30_encoding.md R69) -/

theorem test_seedw_index_out_of_range : (SourceCmd.seedw 4 0).wellFormed = false := by decide

theorem test_seedw_immediate_out_of_range : (SourceCmd.seedw 3 4294967296).wellFormed = false := by decide

theorem test_bounded_immediate_out_of_range : (SourceCmd.bounded 4294967296).wellFormed = false := by decide

theorem test_rdstate_index_out_of_range : (SourceCmd.rdstate 4).wellFormed = false := by decide

theorem test_largest_operands_are_well_formed : (SourceCmd.seedw 3 4294967295).wellFormed = true := by decide

/-! ### One step each -/

/-- A block in IDLE after reset, with the given S and STAGE. -/
def block (S stage : Quad) : State := { State.reset with S := S, stage := stage }

/-- The state after one step that accepts the word `w`; the reset state where the step answers no next state. -/
def accepts (s : State) (w : CmdWord) : State :=
  match step (offerWord s w) with
  | .next t => t
  | .fault _ => State.reset
  | .refused _ => State.reset

/-- The state after one step at the edge `e`; the reset state where the step answers no next state. -/
def meets (s : State) (e : Edge) : State :=
  match step { s with edges := [e] } with
  | .next t => t
  | .fault _ => State.reset
  | .refused _ => State.reset

/-- S = {1, 1, 1, 1}, the seed of the §8 scenario. -/
def ones : Quad := ⟨1, 1, 1, 1⟩

/-- An uninitialized block in ENT_WAIT inside the given command. -/
def waiting (k : Seeder) : State := { State.reset with seq := .entWait, work := .seeding k, entOut := true }

/-- The entropy bytes 0x01, 0x02, ..., 0x10, byte 0 first (20_memory.md R47). -/
def bytes01to10 : EntData := 0x100F0E0D0C0B0A090807060504030201

/-- V-DEC-14. -/
theorem test_nop_shows_seeded : (accepts (block ones zeroQuad) 0).rspData = 0x0000001000000000 := by decide

/-- V-ENT-1, the answer's edge. -/
theorem test_init_takes_the_entropy :
    (meets (waiting .init) (Edge.answer 16 bytes01to10)).rspData = 0x0000001000000000 ∧
    (meets (waiting .init) (Edge.answer 16 bytes01to10)).S = ⟨0x04030201, 0x08070605, 0x0C0B0A09, 0x100F0E0D⟩ := by
  decide

/-- V-ENT-5 and V-ENT-6: the count is tested before the value, and 17 is a short read. -/
theorem test_short_read_is_fatal :
    (meets (waiting .init) (Edge.answer 0 0)).rspData = 0x0000002F00000000 ∧
    (meets (waiting .init) (Edge.answer 17 bytes01to10)).rspData = 0x0000002F00000000 := by decide

/-- 40_generator.md R87, the example. -/
theorem test_seedw_writes_one_word :
    (accepts State.reset 0x0000000100000022).stage = ⟨0, 0, 1, 0⟩ ∧
    (accepts State.reset 0x0000000100000022).rspData = 0 := by decide

/-- V-SEED-1, the last command, and V-SEED-3. -/
theorem test_seedc_commits_or_refuses :
    (accepts (block zeroQuad ones) 3).S = ones ∧ (accepts (block zeroQuad ones) 3).rspData = 0x0000001000000000 ∧
    (accepts (block ones zeroQuad) 3).rspData = 0x0000001300000000 := by decide

/-- V-GEN-1. -/
theorem test_next_regression_vector :
    (accepts (block ones ones) 4).rspData = 0x0000011000001680 ∧
    (accepts (block ones ones) 4).S = ⟨1, 1, 0x200, 0⟩ := by decide

/-- V-ENT-3. -/
theorem test_next_initializes_lazily :
    (meets (waiting .next) (Edge.answer 16 bytes01to10)).rspData = 0x0000011043AD16DA ∧
    (meets (waiting .next) (Edge.answer 16 bytes01to10)).S =
      ⟨0x1C0B0A09, 0x000F0E0D, 0x06040208, 0x404040C0⟩ := by decide

/-- V-SMP-5: the slow path accepts without a redraw. -/
theorem test_bounded_slow_path_accepts :
    (accepts (block ones zeroQuad) 0xFFFFFFFF00000005).rspData = 0x000001100000167F := by decide

/-- V-SMP-12, the first draw and the last: RESIDUE is 0x7FFFFFFF. -/
theorem test_bounded_redraws :
    (accepts (block ⟨0, 1, 0, 0⟩ zeroQuad) 0x8000000100000005).work = .redrawing ∧
    (accepts (block ⟨0, 1, 0, 0⟩ zeroQuad) 0x8000000100000005).smp.residue = 0x7FFFFFFF ∧
    (match (accepts (block ⟨0, 1, 0, 0⟩ zeroQuad) 0x8000000100000005).after 3 with
      | .next t => t.rspData
      | .fault _ => 0
      | .refused _ => 0) = 0x0000041050168000 := by decide

/-- 41_sampler.md R109, on the fast path, on the slow path without a redraw (V-SMP-5), and after a rejection
(V-SMP-12). -/
theorem test_bounded_phases :
    (accepts (block ones zeroQuad) 0x0000000300000005).smp.phases.reverse = [.draw, .fastCheck, .done] ∧
    (accepts (block ones zeroQuad) 0xFFFFFFFF00000005).smp.phases.reverse =
      [.draw, .fastCheck, .residueCalc, .loopCheck, .done] ∧
    (accepts (block ⟨0, 1, 0, 0⟩ zeroQuad) 0x8000000100000005).smp.phases.reverse =
      [.draw, .fastCheck, .residueCalc, .loopCheck] := by decide

/-- V-SEED-4, word 3, and V-SEED-5. -/
theorem test_rdstate_answers_the_word :
    (accepts (block ⟨0xA00, 0x201, 0x40001, 0x500000⟩ zeroQuad) 0x36).rspData = 0x0000001000500000 ∧
    (accepts State.reset 0x36).rspData = 0 := by decide

/-- V-DEC-3 and V-DEC-12: ILLEGAL, and the sticky fault before it. -/
theorem test_illegal_and_sticky_fault :
    (accepts State.reset 7).rspData = 0x0000000100000000 ∧
    (accepts { State.reset with fault := true } 7).rspData = 0x0000002F00000000 := by decide

/-- The first instruction after reset: every row of the opcode table, its operand bits zero, is run. -/
theorem test_first_step_runs_every_row :
    ([0, 1, 2, 3, 4, 5, 6] : List Nat).all (fun w =>
      match step (State.reset.withFetchWord 64 w) with
      | .next t => decide (t.trace = [.accepted (BitVec.ofNat 64 w)])
      | .fault _ => false
      | .refused _ => false) = true := by decide

/-- 30_encoding.md R69: blanks, commas, a comment, both number forms. -/
theorem test_assembler_line :
    Asm.assembleLine "  seedw 1 , 0x1 ; one".toList = .ok [0x0000000100000012] ∧
    Asm.assembleLine "bounded 1000".toList = .ok [0x000003E800000005] ∧
    Asm.assembleLine "Nop".toList = .error .unknownMnemonic := ⟨rfl, rfl, rfl⟩

/-! ### Witnesses: the hypotheses of each statement can be met together -/

/-- The host has nothing on offer, so every edge keeps the handshake. -/
theorem offerHeld_of_none {s : State} (h : s.offered = none) (e : Edge) : s.OfferHeld e := by
  intro w hw
  rw [h] at hw
  cases hw

theorem witness_DecodedWordIsTheEncoding : decode 0xFFFFFFFF00000032 = .ok (.seedw 3 0xFFFFFFFF) := by rfl

theorem witness_WordDecodesExactlyWhenItMatchesItsRow :
    (∃ i, decode 0x0000000000000036 = .ok i) ∧ (∃ row ∈ rows, matchesRow 0x0000000000000036 row = true) :=
  ⟨⟨.rdstate 3, rfl⟩, (rowMatch (.rdstate 0), rowMask (.rdstate 0)), by decide, by decide⟩

/-- One boundary value for each clause: the least bit of RZ, the opcodes on both sides of 7, and each field that must
be zero at its least non-zero value. -/
theorem witness_DecoderFollowsTheCaseTable :
    (1 : BitVec 26) ≠ 0 ∧ 7 ≤ (0x7 : BitVec 4).toNat ∧ ¬ 7 ≤ (0x6 : BitVec 4).toNat ∧
    (0x5 : BitVec 4) ∈ ([0x0, 0x1, 0x3, 0x4, 0x5] : List (BitVec 4)) ∧ (1 : Fin 4) ≠ 0 ∧
    (0x6 : BitVec 4) ∈ ([0x0, 0x1, 0x3, 0x4, 0x6] : List (BitVec 4)) ∧ (1 : Word) ≠ 0 ∧
    decode 0x0000000000000002 = .ok (.seedw 0 0) ∧ decode 0xFFFFFFFF00000005 = .ok (.bounded 0xFFFFFFFF) := by
  refine ⟨by decide, by decide, by decide, by decide, by decide, by decide, by decide, rfl, rfl⟩

theorem witness_InitOnASeededBlockAnswersOk : (block ⟨0, 0, 0, 1⟩ zeroQuad).S ≠ zeroQuad := by decide

theorem witness_OnlyInitNextAndBoundedAskForEntropy :
    State.reset.S = zeroQuad ∧ (1 : Word) ≠ 0 ∧
    ∃ t, exec .next State.reset = .next t ∧ t.entReqValid false = true := by
  exact ⟨rfl, by decide, _, rfl, by decide⟩

theorem witness_SeedcCopiesStageIntoTheState : (block zeroQuad ⟨0, 0, 0, 1⟩).stage ≠ zeroQuad := by decide

theorem witness_SeedcRefusesAnAllZeroStage : (block ones zeroQuad).stage = zeroQuad := by decide

theorem witness_NextReturnsTheRawSampleAndStepsTheState :
    (block ones zeroQuad).S = ⟨1, 1, 1, 1⟩ ∧ (block ones zeroQuad).S ≠ zeroQuad ∧ (block ones zeroQuad).draws = 0 := by
  decide

theorem witness_BoundedAcceptsAFirstSampleThatIsNotRejected :
    (block ones zeroQuad).S ≠ zeroQuad ∧ (3 : Word) ≠ 0 ∧ (block ones zeroQuad).draws = 0 ∧
    ¬ Rejects (3 : Word).toNat (genOutput (block ones zeroQuad).S).toNat := by decide

theorem witness_BoundedGoesOnAfterARejectedFirstSample :
    (block ⟨0, 1, 0, 0⟩ zeroQuad).S ≠ zeroQuad ∧ (3 : Word) ≠ 0 ∧ (block ⟨0, 1, 0, 0⟩ zeroQuad).draws = 0 ∧
    Rejects (3 : Word).toNat (genOutput (block ⟨0, 1, 0, 0⟩ zeroQuad).S).toNat := by decide

theorem witness_EveryCommandLeavesTheRestUnchanged :
    (∀ idx imm, Instr.seedc ≠ .seedw idx imm) ∧ (∀ limit, Instr.seedc ≠ .bounded limit) ∧ Instr.nop ≠ .seedc ∧
    Instr.seedc ≠ .next := by
  refine ⟨?_, ?_, ?_, ?_⟩ <;> intros <;> simp

theorem witness_RepeatedCommandsChangeNothingMore :
    (∃ t, exec .nop State.reset = .next t) ∧ (∃ t, exec .seedc State.reset = .next t) ∧
    (∃ t, exec .init (block ones zeroQuad) = .next t) ∧ (block ones zeroQuad).S ≠ zeroQuad :=
  ⟨⟨_, rfl⟩, ⟨_, rfl⟩, ⟨_, rfl⟩, by decide⟩

theorem witness_ResidueIsTwoToThe32ModLimit : (1 : Word) ≠ 0 ∧ (0xFFFFFFFF : Word) ≠ 0 := by decide

theorem witness_BoundedCornerCases :
    (1 ≤ 1 ∧ 1 ≤ 31) ∧ (1 ≤ 31 ∧ 31 ≤ 31) ∧ (1 : Word) ≠ 0 ∧ Rejects 0xFFFFFFFF 0 ∧ ¬ Rejects 0xFFFFFFFF 1 := by
  decide

/-- A block in ENT_WAIT inside a BOUNDED with limit 3. -/
def waitingBounded : State := { waiting .bounded with smp := { Sampler.reset with lim := 3 } }

/-- The three ways a BOUNDED can end: at once, after a redraw, and as its entropy comes. -/
theorem witness_BoundedAnswersBelowTheLimit :
    (∃ t, exec (.bounded 3) (block ones zeroQuad) = .next t ∧ t.seq = .rspPend ∧
      t.rspData.extractLsb' 32 4 = 0x0) ∧
    (∃ s t, step s = .next t ∧ s.smp.lim = 3 ∧ s.NotReset ∧ (s.work = .redrawing ∧ s.seq = .exec) ∧
      t.seq = .rspPend ∧ t.rspData.extractLsb' 32 4 = 0x0) ∧
    (∃ s t, step s = .next t ∧ s.smp.lim = 3 ∧ s.NotReset ∧ (s.work = .seeding .bounded ∧ s.seq = .entWait) ∧
      t.seq = .rspPend ∧ t.rspData.extractLsb' 32 4 = 0x0) := by
  refine ⟨⟨_, rfl, by decide, by decide⟩,
    ⟨{ accepts (block ⟨0, 1, 0, 0⟩ zeroQuad) 0x0000000300000005 with edges := [] }, _, rfl, by decide, ?_, by decide,
      by decide, by decide⟩,
    ⟨{ waitingBounded with edges := [Edge.answer 16 1] }, _, rfl, rfl, ?_, by decide, by decide, by decide⟩⟩
  · intro e rest h
    cases h
  · intro e rest h
    cases h
    rfl

/-- A block whose first raw sample is 0, so rejected by the limit 3, and whose host offers NEXT at the next edge. -/
def rejecting : State := { block ⟨0, 1, 0, 0⟩ zeroQuad with edges := [Edge.command 4] }

/-- With no edge to come, and with an edge at which the host offers a word. -/
theorem witness_BoundedAnswersWithTheFirstSampleNotRejected :
    rejecting.S ≠ zeroQuad ∧ (3 : Word) ≠ 0 ∧ rejecting.draws = 0 ∧
    Uninterrupted none ([].take 1) ∧ Uninterrupted rejecting.offered (rejecting.edges.take 1) ∧
    (∀ m < 1, Rejects (3 : Word).toNat (rawAt rejecting.S m).toNat) ∧
    ¬ Rejects (3 : Word).toNat (rawAt rejecting.S 1).toNat := by
  refine ⟨by decide, by decide, by decide, ?_, ?_, by decide, by decide⟩ <;>
    simp [Uninterrupted, rejecting, block, State.reset, Edge.command, Edge.quiet]

/-- The fast path needs no redraw; the slow path here has one. -/
theorem witness_SamplerPhasesFollowTheSequence :
    rejecting.S ≠ zeroQuad ∧ (3 : Word) ≠ 0 ∧ rejecting.draws = 0 ∧
    Uninterrupted rejecting.offered (rejecting.edges.take 1) ∧
    (∀ m < 1, Rejects (3 : Word).toNat (rawAt rejecting.S m).toNat) ∧
    ¬ Rejects (3 : Word).toNat (rawAt rejecting.S 1).toNat ∧
    (∀ m < 0, Rejects (3 : Word).toNat (rawAt ones m).toNat) ∧ ¬ Rejects (3 : Word).toNat (rawAt ones 0).toNat := by
  refine ⟨by decide, by decide, by decide, ?_, by decide, by decide, by decide, by decide⟩
  simp [Uninterrupted, rejecting, block, State.reset, Edge.command, Edge.quiet]

/-- A redraw due with no edge to come, and with an edge at which the host offers a word. -/
theorem witness_RedrawIsOneGenStepTestedAgainstResidue :
    ∃ s : State, s.seq = .exec ∧ s.work = .redrawing ∧ s.edges = [] ∧
      ∃ e, e.rst = false ∧ e.cmdValid = true ∧ { s with edges := [e] }.OfferHeld e :=
  ⟨{ accepts (block ⟨0, 1, 0, 0⟩ zeroQuad) 0x0000000300000005 with edges := [] }, by decide, by decide, rfl,
    Edge.command 4, rfl, rfl, offerHeld_of_none (by decide) _⟩

theorem witness_RejectionLoopHasNoCap :
    rejecting.S ≠ zeroQuad ∧ (0x80000001 : Word) ≠ 0 ∧ rejecting.draws = 0 ∧
    Uninterrupted rejecting.offered (rejecting.edges.take 2) ∧
    (∀ m ≤ 2, Rejects (0x80000001 : Word).toNat (rawAt rejecting.S m).toNat) := by
  refine ⟨by decide, by decide, by decide, ?_, by decide⟩
  simp [Uninterrupted, rejecting, block, State.reset, Edge.command, Edge.quiet]

theorem witness_EveryResultHasEquallyManyAcceptedRawValues :
    (1 : Word) ≠ 0 ∧ 0 < (1 : Word).toNat ∧ 0xFFFFFFFE < (0xFFFFFFFF : Word).toNat := by decide

/-- A block in EXEC that asks for entropy. -/
def asking : State := { State.reset with seq := .exec, work := .seeding .next }

/-- A state with one edge to come. -/
def facing (s : State) (e : Edge) : State := { s with edges := [e] }

/-- The request taken, and the request not taken. -/
theorem witness_EntropyRequestIsIssuedWhenTaken :
    (facing asking Edge.request).edges = [Edge.request] ∧ (facing asking Edge.request).seq = .exec ∧ (facing asking Edge.request).work = .seeding .next ∧ Edge.request.rst = false ∧ (facing asking Edge.request).OfferHeld Edge.request ∧
    Edge.request.entReqReady = true ∧ Edge.quiet.entReqReady = false :=
  ⟨rfl, rfl, rfl, rfl, offerHeld_of_none rfl _, rfl, rfl⟩

theorem witness_FullReadSeedsTheStateAndTheCommandGoesOn :
    (facing waitingBounded (Edge.answer 16 1)).edges = [Edge.answer 16 1] ∧ (facing waitingBounded (Edge.answer 16 1)).seq = .entWait ∧ (facing waitingBounded (Edge.answer 16 1)).entOut = true ∧ (facing waitingBounded (Edge.answer 16 1)).work = .seeding .bounded ∧
    (Seeder.bounded = .bounded → (facing waitingBounded (Edge.answer 16 1)).smp.lim ≠ 0) ∧
    (Edge.answer 16 1).rst = false ∧ (facing waitingBounded (Edge.answer 16 1)).OfferHeld (Edge.answer 16 1) ∧
    (Edge.answer 16 1).entRspValid = true ∧ (Edge.answer 16 1).entRspCount = 16 ∧
    (Edge.answer 16 1).entRspData ≠ 0 :=
  ⟨rfl, rfl, rfl, rfl, fun _ => by decide, rfl, offerHeld_of_none rfl _, rfl, rfl, by decide⟩

theorem witness_AllZeroFullReadIsRetried :
    (facing (waiting .init) (Edge.answer 16 0)).edges = [Edge.answer 16 0] ∧ (facing (waiting .init) (Edge.answer 16 0)).seq = .entWait ∧ (facing (waiting .init) (Edge.answer 16 0)).entOut = true ∧ (facing (waiting .init) (Edge.answer 16 0)).work = .seeding .init ∧
    (Edge.answer 16 0).rst = false ∧ (facing (waiting .init) (Edge.answer 16 0)).OfferHeld (Edge.answer 16 0) ∧
    (Edge.answer 16 0).entRspValid = true ∧ (Edge.answer 16 0).entRspCount = 16 ∧
    (Edge.answer 16 0).entRspData = 0 :=
  ⟨rfl, rfl, rfl, rfl, rfl, offerHeld_of_none rfl _, rfl, rfl, rfl⟩

/-- The counts on both sides of a full read. -/
theorem witness_ShortReadSetsTheStickyFault :
    (facing (waiting .init) (Edge.answer 15 0)).edges = [Edge.answer 15 0] ∧ (facing (waiting .init) (Edge.answer 15 0)).seq = .entWait ∧ (facing (waiting .init) (Edge.answer 15 0)).entOut = true ∧ (facing (waiting .init) (Edge.answer 15 0)).work = .seeding .init ∧
    (facing (waiting .init) (Edge.answer 15 0)).S = zeroQuad ∧ (Edge.answer 15 0).rst = false ∧
    (facing (waiting .init) (Edge.answer 15 0)).OfferHeld (Edge.answer 15 0) ∧ (Edge.answer 15 0).entRspValid = true ∧
    (Edge.answer 15 0).entRspCount ≠ 16 ∧ (Edge.answer 17 0).entRspCount ≠ 16 :=
  ⟨rfl, rfl, rfl, rfl, rfl, rfl, offerHeld_of_none rfl _, rfl, by decide, by decide⟩

theorem witness_UnaskedEntropyAnswerChangesNothing : State.reset.entOut = false := rfl

theorem witness_EntropyWaitHoldsUntilTheAnswer :
    (waiting .init).seq = .entWait ∧ (waiting .init).edges = [] ∧ Edge.quiet.rst = false ∧
    (waiting .init).OfferHeld Edge.quiet ∧ Edge.quiet.entRspValid = false ∧
    (∃ t, step { waiting .init with edges := [Edge.answer 16 1] } = .next t ∧ t.seq ≠ .entWait) :=
  ⟨rfl, rfl, rfl, offerHeld_of_none rfl _, rfl, _, rfl, by decide⟩

theorem witness_StepRunsTheDecodedCommand :
    (facing State.reset (Edge.command 4)).edges = [Edge.command 4] ∧ (facing State.reset (Edge.command 4)).seq = .idle ∧ (facing State.reset (Edge.command 4)).fault = false ∧ (Edge.command 4).rst = false ∧
    (facing State.reset (Edge.command 4)).OfferHeld (Edge.command 4) ∧ (Edge.command 4).cmdValid = true ∧
    decode (Edge.command 4).cmdData = .ok .next :=
  ⟨rfl, rfl, rfl, rfl, offerHeld_of_none rfl _, rfl, rfl⟩

theorem witness_UndecodableWordIsAnsweredIllegal :
    (facing State.reset (Edge.command 7)).edges = [Edge.command 7] ∧ (facing State.reset (Edge.command 7)).seq = .idle ∧ (facing State.reset (Edge.command 7)).fault = false ∧ (Edge.command 7).rst = false ∧
    (facing State.reset (Edge.command 7)).OfferHeld (Edge.command 7) ∧ (Edge.command 7).cmdValid = true ∧
    decode (Edge.command 7).cmdData = .error .reservedOpcode :=
  ⟨rfl, rfl, rfl, rfl, offerHeld_of_none rfl _, rfl, rfl⟩

/-- A faulted block in IDLE meets the invariant. -/
def faulted : State := { State.reset with fault := true, edges := [Edge.command 7] }

theorem witness_StickyFaultAnswersEveryCommand :
    (∃ t, faulted.NotReset ∧ step faulted = .next t) ∧ faulted.Inv ∧ faulted.fault = true ∧ faulted.seq = .idle ∧
    faulted.edges = [Edge.command 7] ∧
    (Edge.command 7).rst = false ∧ faulted.OfferHeld (Edge.command 7) ∧ (Edge.command 7).cmdValid = true := by
  refine ⟨⟨_, ?_, rfl⟩, ?_, rfl, rfl, rfl, rfl, offerHeld_of_none rfl _, rfl⟩
  · intro e rest h
    cases h
    rfl
  constructor <;> simp [faulted, State.reset, zeroQuad]

theorem witness_FaultIsSetOnlyByAShortReadAndClearedOnlyByReset :
    (∃ s t, step s = .next t ∧ s.fault = true ∧ t.fault = false) ∧
    (∃ s t, step s = .next t ∧ s.fault = false ∧ t.fault = true) :=
  ⟨⟨{ faulted with edges := [Edge.reset] }, _, rfl, rfl, rfl⟩,
    ⟨{ waiting .init with edges := [Edge.answer 15 0] }, _, rfl, rfl, by decide⟩⟩

theorem witness_CommandIsAcceptedExactlyWhenOfferedAndReady :
    ∃ s t, s.edges = [Edge.command 0] ∧ step s = .next t ∧ t.trace = .accepted 0 :: s.trace :=
  ⟨{ State.reset with edges := [Edge.command 0] }, _, rfl, rfl, by decide⟩

theorem witness_ResponseIsHeldUntilItTransfers :
    (facing (accepts State.reset 0) Edge.respond).edges = [Edge.respond] ∧ (facing (accepts State.reset 0) Edge.respond).seq = .rspPend ∧ Edge.respond.rst = false ∧
    (facing (accepts State.reset 0) Edge.respond).OfferHeld Edge.respond ∧ Edge.respond.rspReady = true ∧ Edge.quiet.rspReady = false :=
  ⟨rfl, by decide, rfl, offerHeld_of_none (by decide) _, rfl, rfl⟩

theorem witness_StepStopsOnlyAtHoldsAndBrokenHandshakes :
    step State.reset = .fault .awaitsCommand ∧ step asking = .fault .awaitsEntropyReady ∧
    step (waiting .init) = .fault .awaitsEntropyAnswer ∧
    step { State.reset with seq := .rspPend } = .fault .awaitsResponseReady ∧
    step { State.reset with offered := some 4, edges := [Edge.command 5] } = .refused .handshakeBroken :=
  ⟨rfl, rfl, rfl, rfl, rfl⟩

theorem witness_EdgeWithoutAMoveChangesNothingAtAHold :
    (waiting .init).offered = none ∧ ¬((waiting .init).seq = .exec ∧ (waiting .init).work = .redrawing) := by decide

theorem witness_ResetEdgePutsEveryItemAtItsResetValue :
    ({ waiting .init with edges := [Edge.reset] } : State).edges = [Edge.reset] ∧ Edge.reset.rst = true := ⟨rfl, rfl⟩

theorem witness_EveryStepKeepsTheInvariant : ∃ s t, State.Inv s ∧ step s = .next t := by
  refine ⟨faulted, _, ?_, rfl⟩
  constructor <;> simp [faulted, State.reset, zeroQuad]

theorem witness_SeededStaysTrueUntilReset :
    ∃ s t, step s = .next t ∧ s.NotReset ∧ s.S ≠ zeroQuad := by
  refine ⟨{ block ones zeroQuad with edges := [Edge.command 4] }, _, rfl, ?_, by decide⟩
  intro e rest h
  cases h
  rfl

theorem witness_StageIsWrittenOnlyBySeedw :
    ∃ s t, step s = .next t ∧ s.NotReset ∧ t.stage ≠ s.stage := by
  refine ⟨{ State.reset with edges := [Edge.command 0x0000000100000022] }, _, rfl, ?_, by decide⟩
  intro e rest h
  cases h
  rfl

theorem witness_EveryAcceptedCommandHasOneResponse :
    ∃ s t, State.Balanced s ∧ step s = .next t :=
  ⟨{ State.reset with edges := [Edge.command 0] }, _, by decide, rfl⟩

theorem witness_UnspecifiedRegistersAreNeverReadBeforeWritten :
    ∃ s t : State, s ≠ t ∧ s.Agrees t := by
  refine ⟨State.reset, { State.reset with draws := 7, smp := { Sampler.reset with lim := 9, num := 5 } }, by decide, ?_⟩
  constructor <;> simp [State.reset]

theorem witness_SeedSequenceLoadsTheFourWords :
    ∃ s : State, s.seq = .idle ∧ s.fault = false ∧ s.offered = none ∧ (⟨0, 0, 0, 1⟩ : Quad) ≠ zeroQuad ∧
    s.edges = [Instr.seedw 0 0, .seedw 1 0, .seedw 2 0, .seedw 3 1, .seedc].flatMap
      (fun i => [Edge.command (encode i), Edge.respond]) :=
  ⟨{ State.reset with edges := _ }, rfl, rfl, rfl, by decide, rfl⟩

theorem witness_LazyNextEndsOnceTheEnvironmentAnswers :
    ∃ s : State, s.seq = .idle ∧ s.fault = false ∧ s.offered = none ∧ s.S = zeroQuad ∧ bytes01to10 ≠ 0 ∧
    s.edges = Edge.command (encode .next) ::
      ((List.replicate 1 [Edge.request, Edge.answer 16 0]).flatten ++
        [Edge.request, Edge.answer 16 bytes01to10, Edge.respond]) :=
  ⟨{ State.reset with edges := _ }, rfl, rfl, rfl, rfl, by decide, rfl⟩

theorem witness_BlocksOfASystemShareNothing :
    ∃ (sys : System) (k : Fin sys.blocks.length) (t : State), step (sys.blocks.get k) = .next t :=
  ⟨⟨[State.reset, { State.reset with edges := [Edge.command 0] }]⟩, ⟨1, by decide⟩, _, rfl⟩

end Sys2Proof.Tests
end

section
/-! PROOFS. The state of a block: what one step keeps of it (10_state.md). The lemmas come first, in the order of the
definitions they speak of; the theorems that settle the statements of this family stand at the end. -/

namespace Sys2Proof.Machine

/-! ### GEN_STEP keeps a non-zero state non-zero -/

theorem eq_zero_of_rotl_eq_zero {a : Word} (h : rotl a 11 = 0) : a = 0 := by
  obtain ⟨hl, hr⟩ := BitVec.or_eq_zero_iff.mp h
  bv_omega

theorem eq_zero_of_shiftLeft_eq_self {a : Word} (h : a = a <<< 9) : a = 0 := by
  bv_omega

/-- GEN_STEP takes only the zero state to the zero state (40_generator.md R82). -/
theorem eq_zero_of_genNext_eq_zero {q : Quad} (h : genNext q = zeroQuad) : q = zeroQuad := by
  obtain ⟨a, b, c, d⟩ := q
  simp only [genNext, zeroQuad, Quad.mk.injEq] at h ⊢
  obtain ⟨h0, h1, h2, h3⟩ := h
  have hdb : d ^^^ b = 0 := eq_zero_of_rotl_eq_zero h3
  have ha : a = 0 := by simpa [hdb] using h0
  subst ha
  have hbc : b = c := by simpa using h1
  have hb : b = 0 := by
    refine eq_zero_of_shiftLeft_eq_self ?_
    simpa [← hbc, Config.stateShift] using h2
  subst hb
  exact ⟨rfl, rfl, hbc.symm, by simpa using hdb⟩

theorem genNext_ne_zero {q : Quad} (h : q ≠ zeroQuad) : genNext q ≠ zeroQuad :=
  mt eq_zero_of_genNext_eq_zero h

/-! ### What the shared operations do to each field -/

section operations

variable (s : State) (k : Seeder) (c : BitVec 5) (d : EntData) (e : Edge)

theorem resume_smp (h : k ≠ .bounded) : (s.resume k).smp = s.smp := by
  cases k with
  | init => rfl
  | next => rfl
  | bounded => exact absurd rfl h

theorem ensureSeeded_smp (h : k ≠ .bounded) : (s.ensureSeeded k).smp = s.smp := by
  unfold State.ensureSeeded
  split
  · rfl
  · exact resume_smp s k h

@[simp] theorem ensureSeeded_init_S : (s.ensureSeeded .init).S = s.S := by
  unfold State.ensureSeeded
  split <;> rfl

@[simp] theorem ensureSeeded_init_draws : (s.ensureSeeded .init).draws = s.draws := by
  unfold State.ensureSeeded
  split <;> rfl

theorem resume_S_ne_zero (h : s.S ≠ zeroQuad) : (s.resume k).S ≠ zeroQuad := by
  cases k with
  | init => exact h
  | next => exact genNext_ne_zero h
  | bounded => rw [State.resume, firstSample_S]; exact genNext_ne_zero h

theorem ensureSeeded_S_ne_zero (h : s.S ≠ zeroQuad) : (s.ensureSeeded k).S ≠ zeroQuad := by
  rw [ensureSeeded_of_seeded s k h]
  exact resume_S_ne_zero s k h

/-- The three ways the answer can end one turn of ENSURE_SEEDED's loop (40_generator.md R83). -/
theorem useAnswer_cases :
    (c ≠ Config.entropyBytes ∧ s.useAnswer k c d = s.shortRead) ∨
    (c = Config.entropyBytes ∧ entWords d = zeroQuad ∧ s.useAnswer k c d = s.askEntropy k) ∨
    (c = Config.entropyBytes ∧ entWords d ≠ zeroQuad ∧
      s.useAnswer k c d = { s with S := entWords d }.resume k) := by
  unfold State.useAnswer
  by_cases hc : c = Config.entropyBytes
  · by_cases hd : entWords d = zeroQuad
    · exact .inr (.inl ⟨hc, hd, by simp [hc, hd]⟩)
    · exact .inr (.inr ⟨hc, hd, by simp [hc, hd]⟩)
  · exact .inl ⟨hc, by simp [hc]⟩

/-- An answer while no command is inside ENSURE_SEEDED. -/
theorem takeAnswer_of_not_seeding (h : ∀ k, s.work ≠ .seeding k) :
    s.takeAnswer c d = { s with entOut := false, seq := .exec } := by
  cases hw : s.work with
  | none => simp only [State.takeAnswer, hw]
  | seeding k => exact absurd hw (h k)
  | redrawing => simp only [State.takeAnswer, hw]

/-- What an entropy answer does: it counts for nothing, or ENSURE_SEEDED takes it. -/
theorem takeAnswer_cases :
    ((∀ k, s.work ≠ .seeding k) ∧ s.takeAnswer c d = { s with entOut := false, seq := .exec }) ∨
    ∃ k, s.work = .seeding k ∧ s.takeAnswer c d = { s with entOut := false, seq := .exec }.useAnswer k c d := by
  by_cases h : ∃ k, s.work = .seeding k
  · obtain ⟨k, hk⟩ := h
    exact .inr ⟨k, hk, takeAnswer_of_seeding s k hk c d⟩
  · rw [not_exists] at h
    exact .inl ⟨h, takeAnswer_of_not_seeding s c d h⟩

@[simp] theorem useAnswer_stage : (s.useAnswer k c d).stage = s.stage := by
  obtain ⟨_, h⟩ | ⟨_, _, h⟩ | ⟨_, _, h⟩ := useAnswer_cases s k c d <;> simp [h]

theorem useAnswer_S_ne_zero (h : s.S ≠ zeroQuad) : (s.useAnswer k c d).S ≠ zeroQuad := by
  obtain ⟨_, hu⟩ | ⟨_, _, hu⟩ | ⟨_, hd, hu⟩ := useAnswer_cases s k c d
  · rwa [hu, shortRead_S]
  · rwa [hu, askEntropy_S]
  · rw [hu]
    exact resume_S_ne_zero _ k hd

/-- FAULT under an answer: a short read sets it, and nothing else writes it (10_state.md R25). -/
theorem useAnswer_fault_cases :
    (s.useAnswer k c d).fault = s.fault ∨ (c ≠ Config.entropyBytes ∧ (s.useAnswer k c d).fault = true) := by
  obtain ⟨hc, h⟩ | ⟨_, _, h⟩ | ⟨_, _, h⟩ := useAnswer_cases s k c d
  · exact .inr ⟨hc, by rw [h, shortRead_fault]⟩
  · exact .inl (by rw [h, askEntropy_fault])
  · exact .inl (by rw [h, resume_fault])

@[simp] theorem takeAnswer_stage : (s.takeAnswer c d).stage = s.stage := by
  obtain ⟨_, h⟩ | ⟨k, _, h⟩ := takeAnswer_cases s c d <;> simp [h]

theorem takeAnswer_S_ne_zero (h : s.S ≠ zeroQuad) : (s.takeAnswer c d).S ≠ zeroQuad := by
  obtain ⟨_, ht⟩ | ⟨k, _, ht⟩ := takeAnswer_cases s c d
  · rwa [ht]
  · rw [ht]
    exact useAnswer_S_ne_zero _ k c d h

theorem takeAnswer_fault_cases :
    (s.takeAnswer c d).fault = s.fault ∨
    ((∃ k, s.work = .seeding k) ∧ c ≠ Config.entropyBytes ∧ (s.takeAnswer c d).fault = true) := by
  obtain ⟨_, h⟩ | ⟨k, hw, h⟩ := takeAnswer_cases s c d
  · exact .inl (by rw [h])
  · rw [h]
    exact (useAnswer_fault_cases _ k c d).imp id fun hf => ⟨⟨k, hw⟩, hf⟩

/-- What the block does at an edge in EXEC. -/
theorem execEdge_cases :
    ((s.work = .none ∨ (∃ k, s.work = .seeding k) ∧ e.entReqReady = false) ∧ execEdge s e = s) ∨
    (∃ k, s.work = .seeding k ∧ e.entReqReady = true ∧ execEdge s e = s.issueRequest) ∨
    (s.work = .redrawing ∧ execEdge s e = s.redraw) := by
  unfold execEdge
  cases s.work with
  | none => exact .inl ⟨.inl rfl, rfl⟩
  | seeding k =>
    cases e.entReqReady with
    | false => exact .inl ⟨.inr ⟨⟨k, rfl⟩, rfl⟩, rfl⟩
    | true => exact .inr (.inl ⟨k, rfl, rfl, rfl⟩)
  | redrawing => exact .inr (.inr ⟨rfl, rfl⟩)

@[simp] theorem execEdge_stage : (execEdge s e).stage = s.stage := by
  obtain ⟨_, h⟩ | ⟨_, _, _, h⟩ | ⟨_, h⟩ := execEdge_cases s e <;> simp [h]

@[simp] theorem execEdge_fault : (execEdge s e).fault = s.fault := by
  obtain ⟨_, h⟩ | ⟨_, _, _, h⟩ | ⟨_, h⟩ := execEdge_cases s e <;> simp [h]

theorem execEdge_S_ne_zero (h : s.S ≠ zeroQuad) : (execEdge s e).S ≠ zeroQuad := by
  obtain ⟨_, he⟩ | ⟨_, _, _, he⟩ | ⟨_, he⟩ := execEdge_cases s e
  · rwa [he]
  · rwa [he, issueRequest_S]
  · rw [he, redraw_S]
    exact genNext_ne_zero h

end operations

/-! ### What a command can do -/

/-- What `exec i s` answers: the whole of the next state, guards included. -/
inductive ExecCase (s : State) : Instr → State → Prop where
  | nop : ExecCase s .nop (s.respond .ok 0 0)
  | init : ExecCase s .init (s.ensureSeeded .init)
  | seedw (idx : Fin 4) (imm : Word) :
      ExecCase s (.seedw idx imm) ({ s with stage := setWordAt s.stage idx imm }.respond .ok 0 0)
  | seedcRefused (h : s.stage = zeroQuad) : ExecCase s .seedc (s.raise .zeroSeed)
  | seedcCommits (h : s.stage ≠ zeroQuad) : ExecCase s .seedc ({ s with S := s.stage }.respond .ok 0 0)
  | next : ExecCase s .next (s.ensureSeeded .next)
  | boundedRefused : ExecCase s (.bounded 0) ({ s with smp := { s.smp with lim := 0 } }.raise .limitZero)
  | bounded (limit : Word) (h : limit ≠ 0) :
      ExecCase s (.bounded limit) ({ s with smp := { s.smp with lim := limit } }.ensureSeeded .bounded)
  | rdstate (idx : Fin 4) : ExecCase s (.rdstate idx) (s.respond .ok (wordAt s.S idx) 0)

/-- Every command answers a next state, and `ExecCase` says which. -/
theorem exec_answers (i : Instr) (s : State) : ∃ t, exec i s = .next t ∧ ExecCase s i t := by
  cases i with
  | nop => exact ⟨_, exec_nop s, .nop⟩
  | init => exact ⟨_, exec_init s, .init⟩
  | seedw idx imm => exact ⟨_, exec_seedw s idx imm, .seedw idx imm⟩
  | seedc =>
    by_cases h : s.stage = zeroQuad
    · exact ⟨_, exec_seedc_zero s h, .seedcRefused h⟩
    · exact ⟨_, exec_seedc_commits s h, .seedcCommits h⟩
  | next => exact ⟨_, exec_next s, .next⟩
  | bounded limit =>
    by_cases h : limit = 0
    · subst h
      exact ⟨_, exec_bounded_zero s, .boundedRefused⟩
    · exact ⟨_, exec_bounded s h, .bounded limit h⟩
  | rdstate idx => exact ⟨_, exec_rdstate s idx, .rdstate idx⟩

theorem execCase_of_exec {i : Instr} {s t : State} (h : exec i s = .next t) : ExecCase s i t := by
  obtain ⟨t', ht', hc⟩ := exec_answers i s
  rw [ht', Host.Outcome.next.injEq] at h
  exact h ▸ hc

namespace ExecCase

variable {s t : State} {i : Instr} (h : ExecCase s i t)

include h

theorem fault_eq : t.fault = s.fault := by cases h <;> simp

theorem entOut_eq : t.entOut = s.entOut := by cases h <;> simp

theorem offered_eq : t.offered = s.offered := by cases h <;> simp

theorem edges_eq : t.edges = s.edges := by cases h <;> simp

theorem trace_eq : t.trace = s.trace := by cases h <;> simp

/-- Only SEEDW writes STAGE, one word of it (10_state.md R24). -/
theorem stage_cases :
    t.stage = s.stage ∨ ∃ idx imm, i = .seedw idx imm ∧ t.stage = setWordAt s.stage idx imm := by
  cases h with
  | seedw idx imm => exact .inr ⟨idx, imm, rfl, rfl⟩
  | _ => exact .inl (by simp)

/-- Only BOUNDED writes the sampler registers (41_sampler.md R112). -/
theorem smp_eq (hb : ∀ limit, i ≠ .bounded limit) : t.smp = s.smp := by
  cases h with
  | init => exact ensureSeeded_smp s .init nofun
  | next => exact ensureSeeded_smp s .next nofun
  | boundedRefused => exact absurd rfl (hb 0)
  | bounded limit _ => exact absurd rfl (hb limit)
  | _ => rfl

/-- Only SEEDC, NEXT and BOUNDED write S. -/
theorem S_eq (hc : i ≠ .seedc) (hn : i ≠ .next) (hb : ∀ limit, i ≠ .bounded limit) : t.S = s.S := by
  cases h with
  | init => exact ensureSeeded_init_S s
  | seedcRefused _ => rfl
  | seedcCommits _ => exact absurd rfl hc
  | next => exact absurd rfl hn
  | boundedRefused => rfl
  | bounded limit _ => exact absurd rfl (hb limit)
  | _ => rfl

/-- Only NEXT and BOUNDED write DRAWS. -/
theorem draws_eq (hn : i ≠ .next) (hb : ∀ limit, i ≠ .bounded limit) : t.draws = s.draws := by
  cases h with
  | init => exact ensureSeeded_init_draws s
  | next => exact absurd rfl hn
  | bounded limit _ => exact absurd rfl (hb limit)
  | _ => rfl

/-- No command makes SEEDED false (10_state.md R23). -/
theorem S_ne_zero (hS : s.S ≠ zeroQuad) : t.S ≠ zeroQuad := by
  cases h with
  | init => exact ensureSeeded_S_ne_zero s .init hS
  | next => exact ensureSeeded_S_ne_zero s .next hS
  | bounded limit _ => exact ensureSeeded_S_ne_zero _ .bounded hS
  | seedcCommits hst => exact hst
  | _ => exact hS

end ExecCase

/-! ### What a step can do to FAULT, S and STAGE -/

/-- FAULT under one step: kept, cleared by a reset, or set by a short read (10_state.md R25). -/
theorem step_fault_cases {s t : State} (h : step s = .next t) :
    t.fault = s.fault ∨
    (t.fault = false ∧ ∃ e rest, s.edges = e :: rest ∧ e.rst = true) ∨
    (t.fault = true ∧ ∃ e rest k, s.edges = e :: rest ∧ s.seq = .entWait ∧ s.work = .seeding k ∧
      s.entOut = true ∧ e.entRspValid = true ∧ e.entRspCount ≠ 16) := by
  cases step_next_cases h with
  | redraws _ _ _ ht => exact .inl (by simp [ht])
  | reset e rest he hr ht => exact .inr (.inl ⟨by rw [ht, resetEdge_fault], e, rest, he, hr⟩)
  | runs _ _ _ _ _ _ _ _ _ _ hx => exact .inl (execCase_of_exec hx).fault_eq
  | execEdge _ _ _ _ _ _ ht => exact .inl (by simp [ht])
  | answer e rest he _ _ hq hv ho ht =>
    subst ht
    refine (takeAnswer_fault_cases _ _ _).imp id fun ⟨⟨k, hw⟩, hc, hf⟩ => ?_
    exact .inr ⟨hf, e, rest, k, he, hq, hw, ho, hv, hc⟩
  | _ =>
    subst t
    exact .inl rfl

/-- Without a reset no step makes SEEDED false (10_state.md R23). -/
theorem step_S_ne_zero {s t : State} (h : step s = .next t) (hn : s.NotReset) (hS : s.S ≠ zeroQuad) :
    t.S ≠ zeroQuad := by
  cases step_next_cases h with
  | redraws _ _ _ ht => rw [ht, redraw_S]; exact genNext_ne_zero hS
  | reset e rest he hr _ => exact absurd ((hn e rest he).symm.trans hr) nofun
  | runs _ _ _ _ _ _ _ _ _ _ hx => exact (execCase_of_exec hx).S_ne_zero hS
  | execEdge _ _ _ _ _ _ ht => rw [ht]; exact execEdge_S_ne_zero _ _ hS
  | answer _ _ _ _ _ _ _ _ ht => rw [ht]; exact takeAnswer_S_ne_zero _ _ _ hS
  | _ =>
    subst t
    exact hS

/-- Without a reset a step keeps STAGE, or it accepts and runs a SEEDW (10_state.md R24). -/
theorem step_stage_cases {s t : State} (h : step s = .next t) (hn : s.NotReset) :
    t.stage = s.stage ∨
    ∃ e rest idx imm, s.edges = e :: rest ∧ s.seq = .idle ∧ e.cmdValid = true ∧
      decode e.cmdData = .ok (.seedw idx imm) ∧ t.stage = setWordAt s.stage idx imm := by
  cases step_next_cases h with
  | redraws _ _ _ ht => exact .inl (by simp [ht])
  | reset e rest he hr _ => exact absurd ((hn e rest he).symm.trans hr) nofun
  | runs e rest he _ _ hq hv _ i hd hx =>
    refine (execCase_of_exec hx).stage_cases.imp id fun ⟨idx, imm, hi, hst⟩ => ?_
    exact ⟨e, rest, idx, imm, he, hq, hv, hi ▸ hd, hst⟩
  | execEdge _ _ _ _ _ _ ht => exact .inl (by simp [ht])
  | answer _ _ _ _ _ _ _ _ ht => exact .inl (by simp [ht])
  | _ =>
    subst t
    exact .inl rfl

/-! ### The word of a decoded command -/

/-- A word whose RZ is zero is the packing of its other fields (30_encoding.md R60). -/
theorem packCmd_fields {w : CmdWord} (h : rzField w = 0) :
    packCmd (immField w) (idxField w) (opField w) = w :=
  cmdWord_eq_of_fields (opField_packCmd ..) (idxField_packCmd ..) ((rzField_packCmd ..).trans h.symm)
    (immField_packCmd ..)

/-- OP, written as the decoder's table numbers it. -/
theorem opField_eq_ofNat {w : CmdWord} {n : Nat} (h : (opField w).toNat = n) : opField w = BitVec.ofNat 4 n := by
  rw [← h, BitVec.ofNat_toNat, BitVec.setWidth_eq]

theorem decodePlain_eq_ok {i j : Instr} {w : CmdWord} :
    decodePlain i w = .ok j ↔ idxField w = 0 ∧ immField w = 0 ∧ i = j := by
  unfold decodePlain
  split_ifs <;> simp_all

theorem decodeImm_eq_ok {f : Word → Instr} {j : Instr} {w : CmdWord} :
    decodeImm f w = .ok j ↔ idxField w = 0 ∧ f (immField w) = j := by
  unfold decodeImm
  split_ifs <;> simp_all

theorem decodeIdx_eq_ok {f : Fin 4 → Instr} {j : Instr} {w : CmdWord} :
    decodeIdx f w = .ok j ↔ immField w = 0 ∧ f (idxOperand w) = j := by
  unfold decodeIdx
  split_ifs <;> simp_all

/-- A command with neither operand is decoded from its encoding. -/
theorem encode_of_decodePlain {w : CmdWord} {i j : Instr} {op : BitVec 4} (hrz : rzField w = 0)
    (hop : opField w = op) (hi : encode i = packCmd 0 0 op) (h : decodePlain i w = .ok j) : encode j = w := by
  obtain ⟨hidx, himm, rfl⟩ := decodePlain_eq_ok.mp h
  rw [hi, ← packCmd_fields hrz, hop, hidx, himm]

/-- One word encodes a command: the word it was decoded from (30_encoding.md R67, R68). -/
theorem encode_of_decode {w : CmdWord} {i : Instr} (h : decode w = .ok i) : encode i = w := by
  unfold decode at h
  split at h
  · cases h
  next hrz =>
    rw [not_not] at hrz
    have hw := packCmd_fields hrz
    split at h
    next hop => exact encode_of_decodePlain hrz (opField_eq_ofNat hop) rfl h
    next hop => exact encode_of_decodePlain hrz (opField_eq_ofNat hop) rfl h
    next hop =>
      cases h
      rwa [opField_eq_ofNat hop] at hw
    next hop => exact encode_of_decodePlain hrz (opField_eq_ofNat hop) rfl h
    next hop => exact encode_of_decodePlain hrz (opField_eq_ofNat hop) rfl h
    next hop =>
      obtain ⟨hidx, rfl⟩ := decodeImm_eq_ok.mp h
      rwa [opField_eq_ofNat hop, hidx] at hw
    next hop =>
      obtain ⟨himm, rfl⟩ := decodeIdx_eq_ok.mp h
      rwa [opField_eq_ofNat hop, himm] at hw
    · cases h

/-! ### States that satisfy the invariant -/

namespace State.Inv

/-- The invariant of a block with no command in progress. -/
theorem of_idle {s : State} (hq : s.seq = .idle) (hw : s.work = .none) (ho : s.entOut = false)
    (hf : s.fault = true → s.S = zeroQuad) : s.Inv := by
  constructor <;> simp_all

/-- The script and the host's offer are not the block's: the invariant does not read them. -/
theorem of_environment {s : State} (h : s.Inv) (o : Option CmdWord) (es : List Edge) :
    { s with offered := o, edges := es }.Inv := { h with }

theorem noteOffer {s : State} (h : s.Inv) (e : Edge) (rest : List Edge) :
    (noteOffer { s with edges := rest } e).Inv := h.of_environment _ _

/-- The invariant of a command that has just made its response. -/
theorem of_respond {s : State} (ho : s.entOut = false) {st : Status} {d : Word} {n : BitVec 24}
    (hf : s.fault = true → s.S = zeroQuad ∧ st = .fatalEntropy) (he : st ≠ .ok → d = 0 ∧ n = 0) :
    (s.respond st d n).Inv where
  entOut_iff := by simp [ho]
  idle_work := nofun
  rspPend_work := fun _ => rfl
  exec_work := nofun
  entWait_work := nofun
  seeding_unseeded := nofun
  fault_unseeded := fun h => (hf h).1
  fault_work := fun _ => rfl
  bounded_limit := by simp
  redraw_due := nofun
  response_legal := fun _ => ⟨st, d, n, rfl, he, fun h => (hf h).2⟩

theorem of_shortRead {s : State} (ho : s.entOut = false) (hS : s.S = zeroQuad) : s.shortRead.Inv :=
  of_respond (s := { s with fault := true }) ho (fun _ => ⟨hS, rfl⟩) fun _ => ⟨rfl, rfl⟩

section running

variable {s : State} (ho : s.entOut = false) (hf : s.fault = false)

include ho hf

/-- The invariant of a response made without a fault. -/
theorem of_respond_faultFree {st : Status} {d : Word} {n : BitVec 24} (he : st ≠ .ok → d = 0 ∧ n = 0) :
    (s.respond st d n).Inv :=
  of_respond ho (fun h => absurd (hf.symm.trans h) nofun) he

theorem of_respond_ok (d : Word) (n : BitVec 24) : (s.respond .ok d n).Inv :=
  of_respond_faultFree ho hf fun h => absurd rfl h

theorem of_raise (e : Status) : (s.raise e).Inv :=
  of_respond_faultFree ho hf fun _ => ⟨rfl, rfl⟩

theorem of_sampleDone : s.sampleDone.Inv := of_respond_ok (s := s.enter .done) ho hf _ _

theorem of_askEntropy {k : Seeder} (hS : s.S = zeroQuad) (hl : k = .bounded → s.smp.lim ≠ 0) :
    (s.askEntropy k).Inv := by
  constructor <;> simp [ho, hf, hS]
  case bounded_limit => exact hl

/-- LOOP_CHECK, with NUM and RESIDUE computed from LIM (41_sampler.md R103). -/
theorem of_loopCheck (hS : s.S ≠ zeroQuad) (hd : s.draws ≠ 0) (hl : s.smp.lim ≠ 0)
    (hnum : s.smp.num = mul64 s.smp.raw s.smp.lim) (hres : s.smp.residue = urem (-s.smp.lim) s.smp.lim) :
    s.loopCheck.Inv := by
  by_cases h : lo32 s.smp.num < s.smp.residue
  · rw [loopCheck_rejects s h]
    constructor <;> simp [ho, hf]
    case bounded_limit => exact hl
    case redraw_due => exact ⟨hS, hd, hnum, hres, h⟩
  · rw [loopCheck_accepts s h]
    exact of_sampleDone (s := s.enter .loopCheck) ho hf

theorem of_redraw (hS : s.S ≠ zeroQuad) (hl : s.smp.lim ≠ 0)
    (hres : s.smp.residue = urem (-s.smp.lim) s.smp.lim) : s.redraw.Inv :=
  of_loopCheck (s := s.sampleDraw) ho hf (genNext_ne_zero hS) (satInc_ne_zero _) hl rfl hres

theorem of_firstSample (hS : s.S ≠ zeroQuad) (hl : s.smp.lim ≠ 0) : s.firstSample.Inv := by
  by_cases h : lo32 (mul64 (genOutput s.S) s.smp.lim) < s.smp.lim
  · rw [State.firstSample, fastCheck_slow _ h]
    refine of_loopCheck ?_ ?_ (genNext_ne_zero hS) (satInc_ne_zero _) hl rfl rfl
    · exact ho
    · exact hf
  · rw [firstSample_fast s h]
    refine of_sampleDone ?_ ?_
    · exact ho
    · exact hf

theorem of_resume {k : Seeder} (hS : s.S ≠ zeroQuad) (hl : k = .bounded → s.smp.lim ≠ 0) :
    (s.resume k).Inv := by
  cases k with
  | init => exact of_respond_ok ho hf _ _
  | next => exact of_respond_ok (s := s.genStep) ho hf _ _
  | bounded => exact of_firstSample ho hf hS (hl rfl)

theorem of_ensureSeeded {k : Seeder} (hl : k = .bounded → s.smp.lim ≠ 0) : (s.ensureSeeded k).Inv := by
  by_cases h : s.S = zeroQuad
  · rw [ensureSeeded_of_unseeded s k h]
    exact of_askEntropy ho hf h hl
  · rw [ensureSeeded_of_seeded s k h]
    exact of_resume ho hf h hl

theorem of_useAnswer {k : Seeder} (hS : s.S = zeroQuad) (hl : k = .bounded → s.smp.lim ≠ 0) (c : BitVec 5)
    (d : EntData) : (s.useAnswer k c d).Inv := by
  obtain ⟨_, h⟩ | ⟨_, _, h⟩ | ⟨_, hd, h⟩ := useAnswer_cases s k c d
  · rw [h]
    exact of_shortRead ho hS
  · rw [h]
    exact of_askEntropy ho hf hS hl
  · rw [h]
    exact of_resume (s := { s with S := entWords d }) ho hf hd hl

/-- Every command that runs without a fault and with no request outstanding reaches the invariant. -/
theorem of_execCase {i : Instr} {t : State} (h : ExecCase s i t) : t.Inv := by
  cases h with
  | nop => exact of_respond_ok ho hf _ _
  | init => exact of_ensureSeeded ho hf nofun
  | seedw idx imm => exact of_respond_ok (s := { s with stage := setWordAt s.stage idx imm }) ho hf _ _
  | seedcRefused _ => exact of_raise ho hf _
  | seedcCommits _ => exact of_respond_ok (s := { s with S := s.stage }) ho hf _ _
  | next => exact of_ensureSeeded ho hf nofun
  | boundedRefused => exact of_raise (s := { s with smp := { s.smp with lim := 0 } }) ho hf _
  | bounded limit hl =>
    exact of_ensureSeeded (s := { s with smp := { s.smp with lim := limit } }) ho hf fun _ => hl
  | rdstate idx => exact of_respond_ok ho hf _ _

end running

/-! ### What a step keeps of the invariant -/

section step

variable {s : State} (h : s.Inv)

include h

/-- No request is outstanding outside ENT_WAIT (10_state.md R30). -/
theorem entOut_eq_false (hq : s.seq ≠ .entWait) : s.entOut = false :=
  Bool.eq_false_iff.mpr (mt h.entOut_iff.mp hq)

theorem accept_entOut_eq_false (hq : s.seq = .idle) (w : CmdWord) (rest : List Edge) :
    ({ s with edges := rest }.accept w).entOut = false :=
  h.entOut_eq_false (by simp [hq])

/-- A command in progress is not a faulted one (60_exceptions.md R134, R135). -/
theorem fault_eq_false (hw : s.work ≠ .none) : s.fault = false :=
  Bool.eq_false_iff.mpr (mt h.fault_work hw)

theorem redraw (hq : s.seq = .exec) (hw : s.work = .redrawing) : s.redraw.Inv := by
  obtain ⟨-, hS, -, -, hres, -⟩ := h.redraw_due hw
  exact of_redraw (h.entOut_eq_false (by simp [hq])) (h.fault_eq_false (by simp [hw])) hS
    (h.bounded_limit (.inr hw)) hres

theorem issueRequest {k : Seeder} (hw : s.work = .seeding k) : s.issueRequest.Inv := by
  have hS := h.seeding_unseeded k hw
  have hf := h.fault_eq_false (by simp [hw])
  have hl := h.bounded_limit
  constructor <;> simp_all

theorem execEdge (hq : s.seq = .exec) (e : Edge) : (execEdge s e).Inv := by
  obtain ⟨_, he⟩ | ⟨_, hw, _, he⟩ | ⟨hw, he⟩ := execEdge_cases s e
  · rwa [he]
  · rw [he]
    exact h.issueRequest hw
  · rw [he]
    exact h.redraw hq hw

theorem takeAnswer (hq : s.seq = .entWait) (c : BitVec 5) (d : EntData) : (s.takeAnswer c d).Inv := by
  obtain ⟨k, hw⟩ := h.entWait_work hq
  rw [takeAnswer_of_seeding s k hw]
  have hf : s.fault = false := h.fault_eq_false (by simp [hw])
  have hl : k = .bounded → s.smp.lim ≠ 0 := fun hk => h.bounded_limit (.inl (hk ▸ hw))
  exact of_useAnswer (s := { s with entOut := false, seq := .exec }) rfl hf (h.seeding_unseeded k hw) hl c d

theorem transfer (hq : s.seq = .rspPend) : s.transfer.Inv :=
  of_idle rfl (h.rspPend_work hq) (h.entOut_eq_false (by simp [hq])) h.fault_unseeded

end step

theorem resetEdge (s : State) : s.resetEdge.Inv := of_idle rfl rfl rfl fun _ => rfl

end State.Inv

/-- Every step keeps the invariant. -/
theorem step_keeps_inv {s t : State} (h : s.Inv) (hs : step s = .next t) : t.Inv := by
  cases step_next_cases hs with
  | redraws _ hq hw ht => exact ht ▸ h.redraw hq hw
  | reset _ _ _ _ ht => exact ht ▸ .resetEdge _
  | quiet _ rest _ _ _ _ _ ht => exact ht ▸ h.of_environment s.offered rest
  | faulted e rest _ _ _ hq _ hf ht =>
    have ho := h.accept_entOut_eq_false hq e.cmdData rest
    exact ht ▸ .of_respond ho (fun _ => ⟨h.fault_unseeded hf, rfl⟩) fun _ => ⟨rfl, rfl⟩
  | illegal e rest _ _ _ hq _ hf _ _ ht =>
    have ho := h.accept_entOut_eq_false hq e.cmdData rest
    exact ht ▸ .of_raise ho hf .illegal
  | runs e rest _ _ _ hq _ hf _ _ hx =>
    have ho := h.accept_entOut_eq_false hq e.cmdData rest
    exact .of_execCase ho hf (execCase_of_exec hx)
  | execEdge e rest _ _ _ hq ht => exact ht ▸ (h.noteOffer e rest).execEdge hq e
  | answer e rest _ _ _ hq _ _ ht => exact ht ▸ (h.noteOffer e rest).takeAnswer hq _ _
  | transfer e rest _ _ _ hq _ ht => exact ht ▸ (h.noteOffer e rest).transfer hq
  | waits e rest _ _ _ _ ht => exact ht ▸ h.noteOffer e rest

/-! ### States that differ only in unspecified registers -/

/-- What two states have in common at which a command runs: all that it reads, but for the sampler registers. SEQ, the
work and the response word are left out, for the command writes them before it reads them. -/
structure State.AgreesRunning (s t : State) : Prop where
  S : s.S = t.S
  stage : s.stage = t.stage
  fault : s.fault = t.fault
  entOut : s.entOut = t.entOut
  draws : s.draws = t.draws
  offered : s.offered = t.offered
  edges : s.edges = t.edges
  trace : s.trace = t.trace

namespace State.AgreesRunning

variable {s t : State} (h : s.AgreesRunning t)

include h

theorem withS {p q : Quad} (hp : p = q) : { s with S := p }.AgreesRunning { t with S := q } :=
  { h with S := hp }

theorem withStage {p q : Quad} (hp : p = q) : { s with stage := p }.AgreesRunning { t with stage := q } :=
  { h with stage := hp }

theorem withSmp (p q : Sampler) : { s with smp := p }.AgreesRunning { t with smp := q } := { h with }

theorem enter (p : Phase) : (s.enter p).AgreesRunning (t.enter p) := { h with }

/-- A command that ends with its response leaves states that agree. -/
theorem respond (st : Status) (d : Word) (n : BitVec 24) : (s.respond st d n).Agrees (t.respond st d n) :=
  { h with
    seq := rfl
    work := rfl
    draws := fun _ => h.draws
    rspData := fun _ => rspWord_congr h.fault h.S st d n
    lim := by simp
    residue := nofun }

theorem askEntropy {k : Seeder} (hl : k = .bounded → s.smp.lim = t.smp.lim) :
    (s.askEntropy k).Agrees (t.askEntropy k) :=
  { h with
    seq := rfl
    work := rfl
    draws := fun _ => h.draws
    rspData := nofun
    lim := by simpa using hl
    residue := nofun }

theorem shortRead : s.shortRead.Agrees t.shortRead :=
  respond (s := { s with fault := true }) (t := { t with fault := true }) { h with fault := rfl } _ _ _

theorem genStep : s.genStep.AgreesRunning t.genStep :=
  { h with S := congrArg genNext h.S, draws := congrArg satInc h.draws }

theorem rawSample : s.rawSample.Agrees t.rawSample := by
  simp only [State.rawSample, h.S, h.genStep.draws]
  exact h.genStep.respond _ _ _

theorem sampleDone (hn : s.smp.num = t.smp.num) : s.sampleDone.Agrees t.sampleDone := by
  simp only [State.sampleDone, hn, h.draws]
  exact (h.enter .done).respond _ _ _

/-- LOOP_CHECK reads NUM and RESIDUE. -/
theorem loopCheck (hl : s.smp.lim = t.smp.lim) (hn : s.smp.num = t.smp.num)
    (hr : s.smp.residue = t.smp.residue) : s.loopCheck.Agrees t.loopCheck := by
  by_cases hc : lo32 s.smp.num < s.smp.residue
  · rw [loopCheck_rejects s hc, loopCheck_rejects t (hn ▸ hr ▸ hc)]
    exact { h with
      seq := rfl
      work := rfl
      draws := fun _ => h.draws
      rspData := nofun
      lim := fun _ => hl
      residue := fun _ => hr }
  · rw [loopCheck_accepts s hc, loopCheck_accepts t (hn ▸ hr ▸ hc)]
    exact (h.enter .loopCheck).sampleDone hn

/-- NUM is written from S and LIM before it is read. -/
theorem sampleDraw_num (hl : s.smp.lim = t.smp.lim) : s.sampleDraw.smp.num = t.sampleDraw.smp.num := by
  simp [h.S, hl]

theorem sampleDraw : s.sampleDraw.AgreesRunning t.sampleDraw := h.genStep.withSmp _ _

theorem redraw (hl : s.smp.lim = t.smp.lim) (hr : s.smp.residue = t.smp.residue) :
    s.redraw.Agrees t.redraw :=
  h.sampleDraw.loopCheck hl (h.sampleDraw_num hl) hr

/-- FAST_CHECK reads NUM and LIM, and the slow path writes RESIDUE. -/
theorem fastCheck (hl : s.smp.lim = t.smp.lim) (hn : s.smp.num = t.smp.num) :
    s.fastCheck.Agrees t.fastCheck := by
  by_cases hc : lo32 s.smp.num < s.smp.lim
  · rw [fastCheck_slow s hc, fastCheck_slow t (hn ▸ hl ▸ hc)]
    exact ((h.enter .fastCheck).withSmp _ _).loopCheck hl hn (by simp [hl])
  · rw [fastCheck_accepts s hc, fastCheck_accepts t (hn ▸ hl ▸ hc)]
    exact (h.enter .fastCheck).sampleDone hn

theorem firstSample (hl : s.smp.lim = t.smp.lim) : s.firstSample.Agrees t.firstSample :=
  have hp := h.withSmp { s.smp with phases := [] } { t.smp with phases := [] }
  hp.sampleDraw.fastCheck hl (hp.sampleDraw_num hl)

theorem resume {k : Seeder} (hl : k = .bounded → s.smp.lim = t.smp.lim) :
    (s.resume k).Agrees (t.resume k) := by
  cases k with
  | init => exact h.respond _ _ _
  | next => exact h.rawSample
  | bounded => exact h.firstSample (hl rfl)

theorem ensureSeeded {k : Seeder} (hl : k = .bounded → s.smp.lim = t.smp.lim) :
    (s.ensureSeeded k).Agrees (t.ensureSeeded k) := by
  by_cases hS : s.S = zeroQuad
  · rw [ensureSeeded_of_unseeded s k hS, ensureSeeded_of_unseeded t k (h.S ▸ hS)]
    exact h.askEntropy hl
  · rw [ensureSeeded_of_seeded s k hS, ensureSeeded_of_seeded t k (h.S ▸ hS)]
    exact h.resume hl

theorem useAnswer {k : Seeder} (hl : k = .bounded → s.smp.lim = t.smp.lim) (c : BitVec 5) (d : EntData) :
    (s.useAnswer k c d).Agrees (t.useAnswer k c d) := by
  unfold State.useAnswer
  split_ifs
  · exact h.shortRead
  · exact h.askEntropy hl
  · exact (h.withS rfl).resume hl

/-- A command reads no sampler register that it has not written: BOUNDED latches LIM first (41_sampler.md R104). -/
theorem exec (i : Instr) : OutcomesAgree (exec i s) (exec i t) := by
  cases i with
  | nop => exact h.respond _ _ _
  | init => exact h.ensureSeeded nofun
  | seedw idx imm => exact (h.withStage (congrArg (setWordAt · idx imm) h.stage)).respond _ _ _
  | seedc =>
    by_cases hs : s.stage = zeroQuad
    · rw [exec_seedc_zero s hs, exec_seedc_zero t (h.stage ▸ hs)]
      exact h.respond _ _ _
    · rw [exec_seedc_commits s hs, exec_seedc_commits t (h.stage ▸ hs)]
      exact (h.withS h.stage).respond _ _ _
  | next => exact h.ensureSeeded nofun
  | bounded limit =>
    by_cases hz : limit = 0
    · subst hz
      exact (h.withSmp _ _).respond .limitZero 0 0
    · rw [exec_bounded s hz, exec_bounded t hz]
      exact (h.withSmp _ _).ensureSeeded fun _ => rfl
  | rdstate idx =>
    rw [exec_rdstate, exec_rdstate, h.S]
    exact h.respond _ _ _

end State.AgreesRunning

namespace State.Agrees

variable {s t : State} (h : s.Agrees t)

include h

/-- A command in progress has written DRAWS. -/
theorem agreesRunning (hw : s.work ≠ .none) : s.AgreesRunning t := { h with draws := h.draws hw }

/-- The prologue writes DRAWS (10_state.md R29). -/
theorem accept (w : CmdWord) (rest : List Edge) :
    ({ s with edges := rest }.accept w).AgreesRunning ({ t with edges := rest }.accept w) :=
  { h with edges := rfl, draws := rfl, offered := rfl, trace := by simp [h.trace] }

theorem noteOffer (e : Edge) (rest : List Edge) :
    (noteOffer { s with edges := rest } e).Agrees (noteOffer { t with edges := rest } e) :=
  { h with edges := rfl, offered := rfl }

theorem resetEdge (rest : List Edge) :
    { s with edges := rest }.resetEdge.Agrees { t with edges := rest }.resetEdge := by
  constructor <;> simp [h.trace]

theorem redraw (hw : s.work = .redrawing) : s.redraw.Agrees t.redraw :=
  (h.agreesRunning (by simp [hw])).redraw (h.lim (.inr hw)) (h.residue hw)

theorem issueRequest : s.issueRequest.Agrees t.issueRequest :=
  { h with
    seq := rfl
    entOut := rfl
    trace := by simp [h.trace]
    rspData := nofun }

theorem execEdge (e : Edge) : (execEdge s e).Agrees (execEdge t e) := by
  unfold Machine.execEdge
  rw [← h.work]
  split
  next => exact h
  next =>
    split
    · exact h.issueRequest
    · exact h
  next hw => exact h.redraw hw

/-- A command whose entropy answer has come goes on in EXEC (20_memory.md R46). -/
theorem answered (hw : s.work ≠ .none) :
    { s with entOut := false, seq := .exec }.AgreesRunning { t with entOut := false, seq := .exec } :=
  { h.agreesRunning hw with entOut := rfl }

theorem takeAnswer (c : BitVec 5) (d : EntData) : (s.takeAnswer c d).Agrees (t.takeAnswer c d) := by
  obtain ⟨hw, hs⟩ | ⟨k, hw, hs⟩ := takeAnswer_cases s c d
  · rw [hs, takeAnswer_of_not_seeding t c d (h.work ▸ hw)]
    exact { h with seq := rfl, entOut := rfl, rspData := nofun }
  · rw [hs, takeAnswer_of_seeding t k (h.work ▸ hw)]
    exact (h.answered (by simp [hw])).useAnswer (fun hk => h.lim (.inl (hk ▸ hw))) c d

/-- The response word that transfers is the same. -/
theorem transfer (hq : s.seq = .rspPend) : s.transfer.Agrees t.transfer :=
  { h with
    seq := rfl
    trace := by simp [h.trace, h.rspData hq]
    rspData := nofun }

/-- At the end of the script both make a redraw, or both hold for the same reason. -/
theorem step_at_end (he : s.edges = []) : OutcomesAgree (step s) (step t) := by
  have he' : t.edges = [] := h.edges ▸ he
  by_cases hd : s.seq = .exec ∧ s.work = .redrawing
  · rw [step_redraws he hd.1 hd.2, step_redraws he' (h.seq ▸ hd.1) (h.work ▸ hd.2)]
    exact h.redraw hd.2
  · rw [step_holds he hd, step_holds he' (h.seq ▸ h.work ▸ hd), h.seq]
    exact rfl

section edge

variable {e : Edge} {rest : List Edge} (he : s.edges = e :: rest) (hr : e.rst = false)
    (hk : s.OfferHeld e)

include he hr hk

theorem step_idle (hq : s.seq = .idle) : OutcomesAgree (step s) (step t) := by
  have he' : t.edges = e :: rest := h.edges ▸ he
  have hk' : t.OfferHeld e := fun w hw => hk w (h.offered.trans hw)
  have hq' : t.seq = .idle := h.seq ▸ hq
  cases hv : e.cmdValid with
  | false =>
    rw [step_idle_quiet he hr hk hq hv, step_idle_quiet he' hr hk' hq' hv]
    exact { h with edges := rfl }
  | true =>
    have ha := h.accept e.cmdData rest
    cases hf : s.fault with
    | true =>
      rw [step_accept_faulted he hr hk hq hv hf, step_accept_faulted he' hr hk' hq' hv (h.fault ▸ hf)]
      exact ha.respond _ _ _
    | false =>
      cases hd : decode e.cmdData with
      | error r =>
        rw [step_accept_illegal he hr hk hq hv hf hd,
          step_accept_illegal he' hr hk' hq' hv (h.fault ▸ hf) hd]
        exact ha.respond _ _ _
      | ok i =>
        rw [step_accept_runs he hr hk hq hv hf hd, step_accept_runs he' hr hk' hq' hv (h.fault ▸ hf) hd]
        exact ha.exec i

theorem step_of_offerHeld : OutcomesAgree (step s) (step t) := by
  have he' : t.edges = e :: rest := h.edges ▸ he
  have hk' : t.OfferHeld e := fun w hw => hk w (h.offered.trans hw)
  have hn := h.noteOffer e rest
  cases hq : s.seq with
  | idle => exact h.step_idle he hr hk hq
  | exec =>
    rw [step_exec_edge he hr hk hq, step_exec_edge he' hr hk' (h.seq ▸ hq)]
    exact hn.execEdge e
  | entWait =>
    have hq' : t.seq = .entWait := h.seq ▸ hq
    cases ha : e.entRspValid && s.entOut with
    | false =>
      rw [step_entWait_wait he hr hk hq ha, step_entWait_wait he' hr hk' hq' (h.entOut ▸ ha)]
      exact hn
    | true =>
      rw [Bool.and_eq_true] at ha
      rw [step_entWait_answer he hr hk hq ha.1 ha.2, step_entWait_answer he' hr hk' hq' ha.1 (h.entOut ▸ ha.2)]
      exact hn.takeAnswer _ _
  | rspPend =>
    have hq' : t.seq = .rspPend := h.seq ▸ hq
    cases hv : e.rspReady with
    | false =>
      rw [step_rspPend_wait he hr hk hq hv, step_rspPend_wait he' hr hk' hq' hv]
      exact hn
    | true =>
      rw [step_rspPend_transfer he hr hk hq hv, step_rspPend_transfer he' hr hk' hq' hv]
      exact hn.transfer hq

end edge

theorem step_agrees : OutcomesAgree (step s) (step t) := by
  cases he : s.edges with
  | nil => exact h.step_at_end he
  | cons e rest =>
    have he' : t.edges = e :: rest := h.edges ▸ he
    cases hr : e.rst with
    | true =>
      rw [step_reset he hr, step_reset he' hr]
      exact h.resetEdge rest
    | false =>
      by_cases hk : s.OfferHeld e
      · exact h.step_of_offerHeld he hr hk
      · have hk' : ¬ t.OfferHeld e := fun ht => hk fun w hw => ht w (h.offered.symm.trans hw)
        rw [step_refuses he hr hk, step_refuses he' hr hk']
        exact rfl

end State.Agrees

/-! ### The statements -/

/-- Settles O49: each case of a step keeps every clause. -/
theorem everyStepKeepsTheInvariant : Obligations.EveryStepKeepsTheInvariant :=
  fun _ _ => step_keeps_inv

/-- Settles O50: a draw takes no non-zero S to zero, and what SEEDC and the entropy write of S is not zero. -/
theorem seededStaysTrueUntilReset : Obligations.SeededStaysTrueUntilReset :=
  fun _ _ => step_S_ne_zero

/-- Settles O53: each case of a step reads only what the two states have in common. -/
theorem unspecifiedRegistersAreNeverReadBeforeWritten :
    Obligations.UnspecifiedRegistersAreNeverReadBeforeWritten :=
  fun _ _ h => h.step_agrees

/-- Settles O23: the frame of each case of a command. -/
theorem everyCommandLeavesTheRestUnchanged : Obligations.EveryCommandLeavesTheRestUnchanged := by
  intro i s
  obtain ⟨t, ht, hc⟩ := exec_answers i s
  refine ⟨t, ht, hc.fault_eq, hc.entOut_eq, hc.offered_eq, hc.edges_eq, hc.trace_eq, fun hw => ?_,
    hc.smp_eq, hc.S_eq, hc.draws_eq⟩
  obtain h | ⟨idx, imm, hi, _⟩ := hc.stage_cases
  · exact h
  · exact absurd hi (hw idx imm)

/-- Settles O41: a step keeps FAULT, resets it, or sets it by a short read. -/
theorem faultIsSetOnlyByAShortReadAndClearedOnlyByReset :
    Obligations.FaultIsSetOnlyByAShortReadAndClearedOnlyByReset := by
  intro s t h
  obtain hf | ⟨hf, hreset⟩ | ⟨hf, hshort⟩ := step_fault_cases h
  · exact ⟨fun hs ht => absurd (hs.symm.trans (hf.symm.trans ht)) nofun,
      fun hs ht => absurd (hs.symm.trans (hf.symm.trans ht)) nofun⟩
  · exact ⟨fun _ _ => hreset, fun _ ht => absurd (hf.symm.trans ht) nofun⟩
  · exact ⟨fun _ ht => absurd (hf.symm.trans ht) nofun, fun _ _ => hshort⟩

/-- Settles O51: a step that writes STAGE runs a decoded SEEDW, whose word is its encoding. -/
theorem stageIsWrittenOnlyBySeedw : Obligations.StageIsWrittenOnlyBySeedw := by
  intro s t h hn
  refine (step_stage_cases h hn).imp id fun ⟨e, rest, idx, imm, he, hq, hv, hd, hst⟩ => ?_
  refine ⟨e, rest, idx, imm, he, hq, hv, (encode_of_decode hd).symm, fun j => ?_⟩
  rw [hst, wordAt_setWordAt]

/-- Settles O47: the values are those of the definition. -/
theorem resetStateHasTheSpecsValues : Obligations.ResetStateHasTheSpecsValues :=
  ⟨rfl, rfl, rfl, rfl, rfl, rfl, rfl, rfl, rfl, rfl, rfl, rfl⟩

/-- Settles O48: after reset no command is in progress and nothing has been observed. -/
theorem invariantHoldsAtReset : Obligations.InvariantHoldsAtReset :=
  ⟨.of_idle rfl rfl rfl fun _ => rfl, rfl⟩

end Sys2Proof.Machine
end

section
/-! PROOFS. The three channels of a block (20_memory.md): the handshakes, the entropy words, and where a step stops. The
lemmas come first, in the order of the definitions they speak of; the theorems that settle the statements of this
family stand at the end. -/

namespace Sys2Proof.Machine

/-! ### The bytes and words of an entropy answer -/

theorem entByte_toNat (d : EntData) (k : Nat) : (entByte d k).toNat = d.toNat >>> (8 * k) % 2 ^ 8 :=
  BitVec.extractLsb'_toNat ..

theorem wordAt_entWords (d : EntData) (i : Fin 4) : wordAt (entWords d) i = d.extractLsb' (32 * i) 32 := by
  fin_cases i <;> rfl

/-- A word of an answer is its four bytes, the least significant first (20_memory.md R47). -/
theorem wordAt_entWords_toNat (d : EntData) (i : Fin 4) :
    (wordAt (entWords d) i).toNat =
      (entByte d (4 * i)).toNat + (entByte d (4 * i + 1)).toNat * 2 ^ 8 +
      (entByte d (4 * i + 2)).toNat * 2 ^ 16 + (entByte d (4 * i + 3)).toNat * 2 ^ 24 := by
  have shift (j : Nat) : d.toNat >>> (8 * (4 * (i : Nat) + j)) = d.toNat >>> (32 * (i : Nat)) / 2 ^ (8 * j) := by
    rw [← Nat.shiftRight_eq_div_pow, ← Nat.shiftRight_add]
    congr 1
    omega
  have shift0 := shift 0
  rw [Nat.add_zero] at shift0
  simp only [wordAt_entWords, BitVec.extractLsb'_toNat, entByte_toNat, shift, shift0]
  omega

theorem entWords_eq_zero_iff_bytes {d : EntData} : entWords d = zeroQuad ↔ ∀ k < 16, entByte d k = 0 := by
  constructor
  · intro h k _
    simp [entWords_eq_zero.mp h, entByte]
  · intro h
    refine quad_eq_of_wordAt fun i => BitVec.eq_of_toNat_eq ?_
    have hz : wordAt zeroQuad i = 0 := by fin_cases i <;> rfl
    rw [wordAt_entWords_toNat, hz, h _ (by omega), h _ (by omega), h _ (by omega), h _ (by omega)]
    rfl

/-- The 128-bit view of the words of an answer is the answer (10_state.md R21). -/
theorem state128_entWords (d : EntData) : state128 (entWords d) = d := by
  have h32 : d.extractLsb' 96 32 ++ d.extractLsb' 64 32 = d.extractLsb' 64 64 :=
    BitVec.extractLsb'_append_extractLsb'_eq_extractLsb' rfl
  have h21 : d.extractLsb' 64 64 ++ d.extractLsb' 32 32 = d.extractLsb' 32 96 :=
    BitVec.extractLsb'_append_extractLsb'_eq_extractLsb' rfl
  have h10 : d.extractLsb' 32 96 ++ d.extractLsb' 0 32 = d.extractLsb' 0 128 :=
    BitVec.extractLsb'_append_extractLsb'_eq_extractLsb' rfl
  calc state128 (entWords d)
      = d.extractLsb' 96 32 ++ d.extractLsb' 64 32 ++ d.extractLsb' 32 32 ++ d.extractLsb' 0 32 := rfl
    _ = d.extractLsb' 0 128 := by rw [h32, h21, h10]
    _ = d := BitVec.extractLsb'_eq_self

/-! ### A command done again -/

/-- A response made twice is the response made once. -/
theorem respond_respond (s : State) (st : Status) (d : Word) (n : BitVec 24) :
    (s.respond st d n).respond st d n = s.respond st d n := rfl

theorem setWordAt_setWordAt (q : Quad) (i : Fin 4) (v : Word) :
    setWordAt (setWordAt q i v) i v = setWordAt q i v := by
  refine quad_eq_of_wordAt fun j => ?_
  simp only [wordAt_setWordAt]
  split <;> rfl

theorem exec_init_of_seeded {s : State} (h : s.S ≠ zeroQuad) : exec .init s = .next (s.respond .ok 0 0) := by
  rw [exec_init, ensureSeeded_of_seeded s .init h]
  rfl

/-! ### SEQ and the record of events under the shared operations -/

section operations

variable (s : State) (k : Seeder) (c : BitVec 5) (d : EntData) (e : Edge)

theorem loopCheck_seq_ne_idle : s.loopCheck.seq ≠ .idle := by
  obtain ⟨_, h, _⟩ | ⟨_, h⟩ := loopCheck_cases s <;> simp [h]

theorem redraw_seq_ne_idle : s.redraw.seq ≠ .idle := loopCheck_seq_ne_idle _

theorem firstSample_seq_ne_idle : s.firstSample.seq ≠ .idle := by
  rw [State.firstSample]
  by_cases h : lo32 (mul64 (genOutput s.S) s.smp.lim) < s.smp.lim
  · rw [fastCheck_slow _ h]
    exact loopCheck_seq_ne_idle _
  · rw [fastCheck_accepts _ h]
    exact nofun

theorem resume_seq_ne_idle : (s.resume k).seq ≠ .idle := by
  cases k with
  | init => exact nofun
  | next => exact nofun
  | bounded => exact firstSample_seq_ne_idle s

theorem ensureSeeded_seq_ne_idle : (s.ensureSeeded k).seq ≠ .idle := by
  unfold State.ensureSeeded
  split
  · exact nofun
  · exact resume_seq_ne_idle s k

theorem ExecCase.seq_ne_idle {s t : State} {i : Instr} (h : ExecCase s i t) : t.seq ≠ .idle := by
  cases h with
  | init => exact ensureSeeded_seq_ne_idle s .init
  | next => exact ensureSeeded_seq_ne_idle s .next
  | bounded _ _ => exact ensureSeeded_seq_ne_idle _ .bounded
  | _ => exact nofun

theorem takeAnswer_seq_ne_idle : (s.takeAnswer c d).seq ≠ .idle := by
  obtain ⟨_, h⟩ | ⟨k, _, h⟩ := takeAnswer_cases s c d
  · exact h ▸ nofun
  · rw [h]
    obtain ⟨_, hu⟩ | ⟨_, _, hu⟩ | ⟨_, _, hu⟩ := useAnswer_cases { s with entOut := false, seq := .exec } k c d
    · exact hu ▸ nofun
    · exact hu ▸ nofun
    · exact hu ▸ resume_seq_ne_idle _ k

@[simp] theorem useAnswer_trace : (s.useAnswer k c d).trace = s.trace := by
  obtain ⟨_, h⟩ | ⟨_, _, h⟩ | ⟨_, _, h⟩ := useAnswer_cases s k c d <;> simp [h]

@[simp] theorem takeAnswer_trace : (s.takeAnswer c d).trace = s.trace := by
  obtain ⟨_, h⟩ | ⟨k, _, h⟩ := takeAnswer_cases s c d <;> simp [h]

end operations

/-! ### The event of a step -/

/-- What a step from `s` to `t` adds to the record of events, at which edge, and whether a command is in progress before
and after it. -/
inductive EventCase (s t : State) : Prop where
  /-- A command word is accepted, and its command is in progress. -/
  | accepted (e : Edge) (rest : List Edge) (he : s.edges = e :: rest) (hr : e.rst = false)
      (hv : e.cmdValid = true) (hs : s.seq = .idle) (ht : t.seq ≠ .idle)
      (htr : t.trace = .accepted e.cmdData :: s.trace)
  /-- Nothing is observed: the block is in IDLE, and no word is offered. -/
  | quiet (e : Edge) (rest : List Edge) (he : s.edges = e :: rest) (hv : e.cmdValid = false)
      (hs : s.seq = .idle) (ht : t.seq = .idle) (htr : t.trace = s.trace)
  /-- Nothing is observed: a command stays in progress. -/
  | working (hs : s.seq ≠ .idle) (ht : t.seq ≠ .idle) (htr : t.trace = s.trace)
  /-- An entropy request is issued for the command in progress. -/
  | requested (hs : s.seq ≠ .idle) (ht : t.seq ≠ .idle) (htr : t.trace = .entropyRequest :: s.trace)
  /-- The response of the command in progress transfers. -/
  | responded (w : RspWord) (hs : s.seq ≠ .idle) (ht : t.seq = .idle) (htr : t.trace = .response w :: s.trace)
  /-- A reset. -/
  | reset (e : Edge) (rest : List Edge) (he : s.edges = e :: rest) (hr : e.rst = true) (ht : t.seq = .idle)
      (htr : t.trace = .reset :: s.trace)

theorem execEdge_eventCase {s u : State} (e : Edge) (hs : s.seq ≠ .idle) (hu : u.seq = s.seq)
    (htr : u.trace = s.trace) : EventCase s (execEdge u e) := by
  obtain ⟨_, h⟩ | ⟨_, _, _, h⟩ | ⟨_, h⟩ := execEdge_cases u e
  · exact .working hs (by rwa [h, hu]) (by rw [h, htr])
  · exact .requested hs (by rw [h]; exact nofun) (by rw [h, issueRequest_trace, htr])
  · exact .working hs (by rw [h]; exact redraw_seq_ne_idle u) (by rw [h, redraw_trace, htr])

theorem step_eventCase {s t : State} (h : step s = .next t) : EventCase s t := by
  cases step_next_cases h with
  | redraws _ hq _ ht =>
    subst ht
    exact .working (by simp [hq]) (redraw_seq_ne_idle s) (redraw_trace s)
  | reset e rest he hr ht =>
    subst ht
    exact .reset e rest he hr rfl rfl
  | quiet e rest he _ _ hq hv ht =>
    subst ht
    exact .quiet e rest he hv hq hq rfl
  | faulted e rest he hr _ hq hv _ ht =>
    subst ht
    exact .accepted e rest he hr hv hq nofun rfl
  | illegal e rest he hr _ hq hv _ _ _ ht =>
    subst ht
    exact .accepted e rest he hr hv hq nofun rfl
  | runs e rest he hr _ hq hv _ i _ hx =>
    have hc := execCase_of_exec hx
    exact .accepted e rest he hr hv hq hc.seq_ne_idle hc.trace_eq
  | execEdge e _ _ _ _ hq ht =>
    subst ht
    exact execEdge_eventCase e (by simp [hq]) rfl rfl
  | answer e _ _ _ _ hq _ _ ht =>
    subst ht
    exact .working (by simp [hq]) (takeAnswer_seq_ne_idle _ _ _) (takeAnswer_trace _ _ _)
  | transfer e _ _ _ _ hq _ ht =>
    subst ht
    exact .responded s.rspData (by simp [hq]) rfl rfl
  | waits e rest _ _ _ hq ht =>
    subst ht
    have hs : s.seq ≠ .idle := by
      obtain ⟨hq, _⟩ | ⟨hq, _⟩ := hq <;> simp [hq]
    exact .working hs hs rfl

/-- `cmd_ready` (20_memory.md R43). -/
theorem cmdReady_iff {s : State} {rst : Bool} : s.cmdReady rst = true ↔ rst = false ∧ s.seq = .idle := by
  simp [State.cmdReady]

/-- A step accepts the word offered at an edge where `cmd_valid` and `cmd_ready` are 1, and no other. -/
theorem EventCase.accepted_iff {s t : State} (h : EventCase s t) {e : Edge} {rest : List Edge}
    (he : s.edges = e :: rest) (w : CmdWord) :
    t.trace = .accepted w :: s.trace ↔ (e.cmdValid = true ∧ s.cmdReady e.rst = true) ∧ w = e.cmdData := by
  rw [cmdReady_iff]
  cases h with
  | accepted e' rest' he' hr hv hs _ htr =>
    obtain ⟨rfl, _⟩ := List.cons.inj (he.symm.trans he')
    simp [htr, hr, hv, hs, eq_comm]
  | quiet e' rest' he' hv _ _ htr =>
    obtain ⟨rfl, _⟩ := List.cons.inj (he.symm.trans he')
    simp [htr, hv]
  | working hs _ htr => simp [htr, hs]
  | requested hs _ htr => simp [htr, hs]
  | responded _ hs _ htr => simp [htr, hs]
  | reset e' rest' he' hr _ htr =>
    obtain ⟨rfl, _⟩ := List.cons.inj (he.symm.trans he')
    simp [htr, hr]

/-- One accepted command more, one response more, or neither: each with the change of SEQ that keeps the balance
(20_memory.md R44). -/
theorem EventCase.balanced {s t : State} (h : EventCase s t) (hb : s.Balanced) : t.Balanced := by
  unfold State.Balanced at hb ⊢
  cases h with
  | accepted e _ _ _ _ hs ht htr =>
    simpa [htr, hs, ht, List.countP_cons, Event.isAccepted, Event.isResponse] using hb
  | quiet _ _ _ _ hs ht htr => simpa [htr, hs, ht] using hb
  | working hs ht htr => simpa [htr, hs, ht] using hb
  | requested hs ht htr => simpa [htr, hs, ht, List.countP_cons, Event.isAccepted, Event.isResponse] using hb
  | responded w hs ht htr => simpa [htr, hs, ht, List.countP_cons, Event.isAccepted, Event.isResponse] using hb
  | reset _ _ _ _ ht htr => simp [htr, ht]

/-! ### Where a step stops -/

/-- At an edge without a reset and with the handshake kept the machine has a next state. -/
theorem step_answers {s : State} {e : Edge} {rest : List Edge} (he : s.edges = e :: rest) (hr : e.rst = false)
    (hk : s.OfferHeld e) : ∃ t, step s = .next t := by
  cases hq : s.seq with
  | idle =>
    cases hv : e.cmdValid with
    | false => exact ⟨_, step_idle_quiet he hr hk hq hv⟩
    | true =>
      cases hf : s.fault with
      | true => exact ⟨_, step_accept_faulted he hr hk hq hv hf⟩
      | false =>
        cases hd : decode e.cmdData with
        | error r => exact ⟨_, step_accept_illegal he hr hk hq hv hf hd⟩
        | ok i =>
          obtain ⟨t, ht, _⟩ := exec_answers i ({ s with edges := rest }.accept e.cmdData)
          exact ⟨t, (step_accept_runs he hr hk hq hv hf hd).trans ht⟩
  | exec => exact ⟨_, step_exec_edge he hr hk hq⟩
  | entWait =>
    cases ha : e.entRspValid && s.entOut with
    | false => exact ⟨_, step_entWait_wait he hr hk hq ha⟩
    | true =>
      obtain ⟨hv, ho⟩ := Bool.and_eq_true_iff.mp ha
      exact ⟨_, step_entWait_answer he hr hk hq hv ho⟩
  | rspPend =>
    cases hv : e.rspReady with
    | false => exact ⟨_, step_rspPend_wait he hr hk hq hv⟩
    | true => exact ⟨_, step_rspPend_transfer he hr hk hq hv⟩

/-- What one step answers: a hold at the end of the script, the refusal of a broken handshake, or a next state. -/
inductive StepOutcome (s : State) : Host.Outcome State Fault Refusal → Prop where
  | holds (he : s.edges = []) (h : ¬(s.seq = .exec ∧ s.work = .redrawing)) :
      StepOutcome s (.fault (holdReason s.seq))
  | refuses (e : Edge) (rest : List Edge) (he : s.edges = e :: rest) (hr : e.rst = false) (hk : ¬ s.OfferHeld e) :
      StepOutcome s (.refused .handshakeBroken)
  | answers (t : State) : StepOutcome s (.next t)

theorem step_outcome (s : State) : StepOutcome s (step s) := by
  cases he : s.edges with
  | nil =>
    by_cases h : s.seq = .exec ∧ s.work = .redrawing
    · exact step_redraws he h.1 h.2 ▸ .answers _
    · exact step_holds he h ▸ .holds he h
  | cons e rest =>
    cases hr : e.rst with
    | true => exact step_reset he hr ▸ .answers _
    | false =>
      by_cases hk : s.OfferHeld e
      · obtain ⟨t, ht⟩ := step_answers he hr hk
        exact ht ▸ .answers t
      · exact step_refuses he hr hk ▸ .refuses e rest he hr hk

theorem step_eq_fault_iff {s : State} {f : Fault} : step s = .fault f ↔
    s.edges = [] ∧ ¬(s.seq = .exec ∧ s.work = .redrawing) ∧ f = holdReason s.seq := by
  constructor
  · intro h
    have ho := step_outcome s
    rw [h] at ho
    cases ho with
    | holds he hw => exact ⟨he, hw, rfl⟩
  · rintro ⟨he, hw, rfl⟩
    exact step_holds he hw

theorem step_eq_refused_iff {s : State} {r : Refusal} : step s = .refused r ↔
    r = .handshakeBroken ∧ ∃ e rest, s.edges = e :: rest ∧ e.rst = false ∧ ¬ s.OfferHeld e := by
  constructor
  · intro h
    have ho := step_outcome s
    rw [h] at ho
    cases ho with
    | refuses e rest he hr hk => exact ⟨rfl, e, rest, he, hr, hk⟩
  · rintro ⟨rfl, e, rest, he, hr, hk⟩
    exact step_refuses he hr hk

theorem eq_holdReason_iff (q : Seq) (f : Fault) : f = holdReason q ↔
    (q = .idle ∧ f = .awaitsCommand) ∨ (q = .exec ∧ f = .awaitsEntropyReady) ∨
      (q = .entWait ∧ f = .awaitsEntropyAnswer) ∨ (q = .rspPend ∧ f = .awaitsResponseReady) := by
  cases q <;> simp [holdReason]

/-- ENT_WAIT is left only at an edge that brings a reset or an answer that counts (20_memory.md R56). -/
theorem step_leaves_entWait {s t : State} (hq : s.seq = .entWait) (h : step s = .next t) (ht : t.seq ≠ .entWait) :
    ∃ e rest, s.edges = e :: rest ∧ (e.rst = true ∨ e.entRspValid = true ∧ s.entOut = true) := by
  cases step_next_cases h with
  | reset e rest he hr _ => exact ⟨e, rest, he, .inl hr⟩
  | answer e rest he _ _ _ hv ho _ => exact ⟨e, rest, he, .inr ⟨hv, ho⟩⟩
  | waits e rest _ _ _ _ hw =>
    subst hw
    exact absurd hq ht
  | redraws _ hq' | quiet _ _ _ _ _ hq' | faulted _ _ _ _ _ hq' | illegal _ _ _ _ _ hq' | runs _ _ _ _ _ hq'
  | execEdge _ _ _ _ _ hq' | transfer _ _ _ _ _ hq' => exact absurd (hq.symm.trans hq') nofun

/-! ### An answer nobody asked for -/

/-- While ENT_OUT is 0 no state of the sequencer reads the answer of an edge (20_memory.md R46). -/
theorem edgeMove_unasked {s : State} (h : s.entOut = false) (e : Edge) (count : BitVec 5) (data : EntData) :
    edgeMove s { e with entRspValid := true, entRspCount := count, entRspData := data } =
      edgeMove s { e with entRspValid := false } := by
  unfold edgeMove
  cases s.seq with
  | entWait => rw [h]; rfl
  | _ => rfl

/-! ### The statements -/

/-- Settles O24: what each of these commands reads it either leaves alone or has already written the same. -/
theorem repeatedCommandsChangeNothingMore : Obligations.RepeatedCommandsChangeNothingMore := by
  intro s t i hi h
  rcases hi with rfl | ⟨idx, rfl⟩ | ⟨idx, imm, rfl⟩ | rfl | ⟨rfl, hS⟩
  · cases execCase_of_exec h with
    | nop => rw [exec_nop, respond_respond]
  · cases execCase_of_exec h with
    | rdstate => rw [exec_rdstate, respond_S, respond_respond]
  · cases execCase_of_exec h with
    | seedw =>
      rw [exec_seedw, respond_stage, setWordAt_setWordAt]
      rfl
  · cases execCase_of_exec h with
    | seedcRefused hz => exact exec_seedc_zero _ hz
    | seedcCommits hz => exact exec_seedc_commits _ hz
  · rw [exec_init_of_seeded hS, Host.Outcome.next.injEq] at h
    subst h
    exact exec_init_of_seeded hS

/-- Settles O32: a word is the sum of its bytes, and the words side by side are the answer. -/
theorem entropyBytesFillTheWordsLittleEndian : Obligations.EntropyBytesFillTheWordsLittleEndian :=
  ⟨fun _ => entWords_eq_zero_iff_bytes, fun d i => ⟨wordAt_entWords_toNat d i, state128_entWords d⟩⟩

/-- Settles O37: the hold, the edge that passes it, and the two edges that end it. -/
theorem entropyWaitHoldsUntilTheAnswer : Obligations.EntropyWaitHoldsUntilTheAnswer := by
  intro s hq
  refine ⟨fun he => ?_, fun e rest he hr hk hv => ?_, fun t => step_leaves_entWait hq⟩
  · rw [step_holds he (by simp [hq]), hq]
    rfl
  · exact step_entWait_wait he hr hk hq (by rw [hv, Bool.false_and])

/-- Settles O42: the acceptance is the event of a step at such an edge, and of no other. -/
theorem commandIsAcceptedExactlyWhenOfferedAndReady : Obligations.CommandIsAcceptedExactlyWhenOfferedAndReady := by
  refine ⟨fun _ _ => cmdReady_iff, fun s t e rest he h => ?_⟩
  have hw := (step_eventCase h).accepted_iff he
  exact ⟨⟨fun ⟨w, ha⟩ => ((hw w).mp ha).1, fun hv => ⟨_, (hw _).mpr ⟨hv, rfl⟩⟩⟩, fun w ha => ((hw w).mp ha).2⟩

/-- Settles O44: every step that neither holds nor meets a broken handshake has a next state. -/
theorem stepStopsOnlyAtHoldsAndBrokenHandshakes : Obligations.StepStopsOnlyAtHoldsAndBrokenHandshakes := by
  refine ⟨fun s f => ?_, fun _ _ => step_eq_refused_iff⟩
  rw [step_eq_fault_iff, eq_holdReason_iff]

/-- Settles O52: the event of each step keeps the balance. -/
theorem everyAcceptedCommandHasOneResponse : Obligations.EveryAcceptedCommandHasOneResponse :=
  fun _ _ hb h => (step_eventCase h).balanced hb

/-- Settles O31: the edge at which the request is taken, and the one at which it is not. -/
theorem entropyRequestIsIssuedWhenTaken : Obligations.EntropyRequestIsIssuedWhenTaken := by
  intro s e rest k hq hw he hr hk
  refine ⟨by simp [State.entReqValid, hr, hq, hw], _, rfl, ?_⟩
  cases hv : e.entReqReady with
  | true => exact ⟨step_exec_issue he hr hk hq hw hv, by simp [State.entReqValid]⟩
  | false => exact ⟨step_exec_wait he hr hk hq hw hv, by simp [State.entReqValid, hq, hw]⟩

/-- Settles O36: only ENT_WAIT looks at an answer, and there ENT_OUT is asked first. -/
theorem unaskedEntropyAnswerChangesNothing : Obligations.UnaskedEntropyAnswerChangesNothing := by
  intro s e rest count data h
  have hm := edgeMove_unasked (s := { s with edges := rest }) h e count data
  simp only [step, move, hm]
  rfl

/-- Settles O43: the edge at which the host takes the response, and the one at which it does not. -/
theorem responseIsHeldUntilItTransfers : Obligations.ResponseIsHeldUntilItTransfers := by
  intro s e rest hq he hr hk
  refine ⟨by simp [State.rspValid, hr, hq], ?_⟩
  cases hv : e.rspReady with
  | true => exact step_rspPend_transfer he hr hk hq hv
  | false => exact step_rspPend_wait he hr hk hq hv

end Sys2Proof.Machine
end

section
/-! PROOFS. The encodings (30_encoding.md): command words, the decoder's table, response words and assembly text. The
lemmas come first, in the order of the definitions they speak of; the theorems that settle the statements of this
family stand at the end. -/

namespace Sys2Proof.Machine

/-! ### The decoder and the encoder are inverse to each other -/

/-- No bit of an encoding is dropped (30_encoding.md R65, R68). -/
theorem decode_encode (i : Instr) : decode (encode i) = .ok i := by
  cases i with
  | nop | init | seedc | next => simp [encode, decode, decodePlain]
  | seedw idx imm => simp [encode, decode]
  | bounded limit => simp [encode, decode, decodeImm]
  | rdstate idx => simp [encode, decode, decodeIdx]

theorem decode_eq_ok_iff {w : CmdWord} {i : Instr} : decode w = .ok i ↔ encode i = w :=
  ⟨encode_of_decode, fun h => h ▸ decode_encode i⟩

/-- A word is ILLEGAL when it is no encoding (30_encoding.md R66). -/
theorem decode_eq_error_of_ne_encode {w : CmdWord} (h : ∀ i, encode i ≠ w) : ∃ e, decode w = .error e := by
  cases hd : decode w with
  | ok i => exact absurd (decode_eq_ok_iff.mp hd) (h i)
  | error e => exact ⟨e, rfl⟩

/-! ### The fields of an encoding -/

@[simp] theorem rzField_encode (i : Instr) : rzField (encode i) = 0 := by
  cases i <;> exact rzField_packCmd ..

theorem opField_encode_lt (i : Instr) : (opField (encode i)).toNat < 7 := by
  cases i <;> simp [encode]

/-- Only SEEDW and RDSTATE use IDX (30_encoding.md R63). -/
theorem idxField_encode_eq_zero {i : Instr} (h : opField (encode i) ∈ ([0x0, 0x1, 0x3, 0x4, 0x5] : List (BitVec 4))) :
    idxField (encode i) = 0 := by
  cases i with
  | seedw | rdstate => simp [encode] at h
  | _ => exact idxField_packCmd ..

/-- Only SEEDW and BOUNDED use IMM (30_encoding.md R63). -/
theorem immField_encode_eq_zero {i : Instr} (h : opField (encode i) ∈ ([0x0, 0x1, 0x3, 0x4, 0x6] : List (BitVec 4))) :
    immField (encode i) = 0 := by
  cases i with
  | seedw | bounded => simp [encode] at h
  | _ => exact immField_packCmd ..

/-! ### The rows of the table of match and mask -/

theorem opField_and (v w : CmdWord) : opField (v &&& w) = opField v &&& opField w := BitVec.extractLsb'_and

theorem idxField_and (v w : CmdWord) : idxField (v &&& w) = idxField v &&& idxField w := BitVec.extractLsb'_and

theorem rzField_and (v w : CmdWord) : rzField (v &&& w) = rzField v &&& rzField w := BitVec.extractLsb'_and

theorem immField_and (v w : CmdWord) : immField (v &&& w) = immField v &&& immField w := BitVec.extractLsb'_and

/-- An encoding matches its own row (30_encoding.md R63). -/
theorem encode_and_rowMask (i : Instr) : encode i &&& rowMask i = rowMatch i :=
  match i with
  | .nop => Laws.EncodingRow.nop
  | .init => Laws.EncodingRow.init
  | .seedw idx imm => Laws.EncodingRow.seedw idx imm
  | .seedc => Laws.EncodingRow.seedc
  | .next => Laws.EncodingRow.next
  | .bounded limit => Laws.EncodingRow.bounded limit
  | .rdstate idx => Laws.EncodingRow.rdstate idx

theorem row_mem_rows (i : Instr) : (rowMatch i, rowMask i) ∈ rows := by
  cases i <;> simp [rows, rowMatch, rowMask]

theorem matchesRow_iff {w : CmdWord} {i : Instr} :
    matchesRow w (rowMatch i, rowMask i) = true ↔ w &&& rowMask i = rowMatch i := beq_iff_eq

@[simp] theorem opField_rowMask (i : Instr) : opField (rowMask i) = BitVec.allOnes 4 := by
  cases i <;> (rw [rowMask]; rfl)

@[simp] theorem rzField_rowMask (i : Instr) : rzField (rowMask i) = BitVec.allOnes 26 := by
  cases i <;> (rw [rowMask]; rfl)

@[simp] theorem rzField_rowMatch (i : Instr) : rzField (rowMatch i) = 0 := by
  cases i <;> (rw [rowMatch]; rfl)

section row

variable {w : CmdWord} {i : Instr} (h : w &&& rowMask i = rowMatch i)
include h

/-- Every row fixes OP (30_encoding.md R63). -/
theorem opField_of_row : opField w = opField (rowMatch i) := by
  rw [← h, opField_and, opField_rowMask, BitVec.and_allOnes]

/-- Every row asks for a zero RZ (30_encoding.md R63). -/
theorem rzField_of_row : rzField w = 0 := by
  rw [← rzField_rowMatch i, ← h, rzField_and, rzField_rowMask, BitVec.and_allOnes]

/-- A row whose mask covers IDX fixes it (30_encoding.md R63). -/
theorem idxField_of_row (hm : idxField (rowMask i) = BitVec.allOnes 2) : idxField w = idxField (rowMatch i) := by
  rw [← h, idxField_and, hm, BitVec.and_allOnes]

/-- A row whose mask covers IMM fixes it (30_encoding.md R63). -/
theorem immField_of_row (hm : immField (rowMask i) = BitVec.allOnes 32) : immField w = immField (rowMatch i) := by
  rw [← h, immField_and, hm, BitVec.and_allOnes]

/-- A word that matches a row is the encoding of an instruction of that row (30_encoding.md R63). -/
theorem exists_encode_of_row : ∃ j, encode j = w := by
  rw [← packCmd_fields (rzField_of_row h), opField_of_row h]
  cases i with
  | nop => exact ⟨.nop, by rw [idxField_of_row h rfl, immField_of_row h rfl]; rfl⟩
  | init => exact ⟨.init, by rw [idxField_of_row h rfl, immField_of_row h rfl]; rfl⟩
  | seedw idx imm => exact ⟨.seedw (idxOperand w) (immField w), rfl⟩
  | seedc => exact ⟨.seedc, by rw [idxField_of_row h rfl, immField_of_row h rfl]; rfl⟩
  | next => exact ⟨.next, by rw [idxField_of_row h rfl, immField_of_row h rfl]; rfl⟩
  | bounded limit => exact ⟨.bounded (immField w), by rw [idxField_of_row h (by rw [rowMask]; rfl), rowMatch]; rfl⟩
  | rdstate idx => exact ⟨.rdstate (idxOperand w), by rw [immField_of_row h (by rw [rowMask]; rfl), rowMatch]; rfl⟩

end row

/-! ### The fields of a response word -/

section response

variable (draws : BitVec 24) (flt seeded : Bool) (status : BitVec 4) (data : Word)

@[simp] theorem data_packRsp : (packRsp draws flt seeded status data).extractLsb' 0 32 = data := by
  apply BitVec.eq_of_getLsbD_eq
  intro i hi
  simp [getLsbD_packRsp, hi]

@[simp] theorem status_packRsp : (packRsp draws flt seeded status data).extractLsb' 32 4 = status := by
  apply BitVec.eq_of_getLsbD_eq
  intro i hi
  simp [getLsbD_packRsp, hi, show 32 + i < 36 by omega]

@[simp] theorem seeded_packRsp : (packRsp draws flt seeded status data).getLsbD 36 = seeded :=
  getLsbD_packRsp draws flt seeded status data 36

@[simp] theorem flt_packRsp : (packRsp draws flt seeded status data).getLsbD 37 = flt :=
  getLsbD_packRsp draws flt seeded status data 37

@[simp] theorem reserved_packRsp : (packRsp draws flt seeded status data).extractLsb' 38 2 = 0 := by
  apply BitVec.eq_of_getLsbD_eq
  intro i hi
  simp [getLsbD_packRsp, show ¬ 38 + i < 32 by omega, show ¬ 38 + i < 36 by omega, show ¬ 38 + i < 37 by omega,
    show 38 + i < 40 by omega]

@[simp] theorem draws_packRsp : (packRsp draws flt seeded status data).extractLsb' 40 24 = draws := by
  apply BitVec.eq_of_getLsbD_eq
  intro i hi
  simp [getLsbD_packRsp, hi, show ¬ 40 + i < 32 by omega, show ¬ 40 + i < 36 by omega, show ¬ 40 + i < 37 by omega,
    show ¬ 40 + i < 38 by omega]

end response

/-! ### The statements -/

/-- Settles O1: RZ of an encoding is 0, its OP selects the instruction's own case, and that case reads the operands
back. -/
theorem decodeOfEncodeIsTheInstruction : Obligations.DecodeOfEncodeIsTheInstruction := decode_encode

/-- Settles O2: a word that decodes is packed from its own fields, as the encoder packs them. -/
theorem decodedWordIsTheEncoding : Obligations.DecodedWordIsTheEncoding :=
  fun _ _ => encode_of_decode

/-- Settles O3: an encoding matches its own row, a word that matches a row is an encoding, and each row asks for
another OP. -/
theorem wordDecodesExactlyWhenItMatchesItsRow : Obligations.WordDecodesExactlyWhenItMatchesItsRow := by
  have hrow : ∀ (w : CmdWord) (i : Instr), decode w = .ok i → w &&& rowMask i = rowMatch i :=
    fun w i h => encode_of_decode h ▸ encode_and_rowMask i
  refine ⟨rfl, fun w => ⟨?_, ?_⟩, hrow, ?_⟩
  · rintro ⟨i, hi⟩
    exact ⟨_, row_mem_rows i, matchesRow_iff.mpr (hrow w i hi)⟩
  · rintro ⟨_, hmem, h⟩
    obtain ⟨i, -, rfl⟩ := List.mem_map.mp hmem
    obtain ⟨j, hj⟩ := exists_encode_of_row (matchesRow_iff.mp h)
    exact ⟨j, decode_eq_ok_iff.mpr hj⟩
  · refine List.pairwise_map.mpr (List.Pairwise.imp (R := fun a b => opField (rowMatch a) ≠ opField (rowMatch b))
      (fun hne w ⟨ha, hb⟩ => hne ?_) (by decide))
    exact (opField_of_row (matchesRow_iff.mp ha)).symm.trans (opField_of_row (matchesRow_iff.mp hb))

/-- Settles O4: a case that decodes is an encoding written out; in the other cases a field differs from that of every
encoding. -/
theorem decoderFollowsTheCaseTable : Obligations.DecoderFollowsTheCaseTable := by
  intro imm rz idx op w
  have hop : opField w = op := opField_fields ..
  have hidx : idxField w = idxBits idx := idxField_fields ..
  have hrz : rzField w = rz := rzField_fields ..
  have himm : immField w = imm := immField_fields ..
  refine ⟨fun h => ?_, fun h => ?_, ?_, ?_, ?_, ?_, ?_, ?_, ?_, fun ho h => ?_, fun ho h => ?_⟩
  · refine decode_eq_error_of_ne_encode fun i hi => h ?_
    rw [← hrz, ← hi, rzField_encode]
  · refine decode_eq_error_of_ne_encode fun i hi => ?_
    have hlt := opField_encode_lt i
    rw [hi, hop] at hlt
    omega
  · rintro rfl rfl rfl rfl
    exact decode_encode .nop
  · rintro rfl rfl rfl rfl
    exact decode_encode .init
  · rintro rfl rfl
    exact decode_encode (.seedw idx imm)
  · rintro rfl rfl rfl rfl
    exact decode_encode .seedc
  · rintro rfl rfl rfl rfl
    exact decode_encode .next
  · rintro rfl rfl rfl
    exact decode_encode (.bounded imm)
  · rintro rfl rfl rfl
    exact decode_encode (.rdstate idx)
  · refine decode_eq_error_of_ne_encode fun i hi => h ?_
    have hz := idxField_encode_eq_zero (i := i) (by rwa [hi, hop])
    rw [hi, hidx] at hz
    exact congrArg BitVec.toFin hz
  · refine decode_eq_error_of_ne_encode fun i hi => h ?_
    rw [← himm, ← hi, immField_encode_eq_zero (by rwa [hi, hop])]

/-- Settles O5: the six encodings are evaluated, and each decodes back. -/
theorem exampleWordsEncodeAndDecode : Obligations.ExampleWordsEncodeAndDecode := by
  intro p hp
  have he : encode p.1 = p.2 := by
    revert p
    decide
  exact ⟨he, decode_eq_ok_iff.mpr he⟩

/-- Settles O6: the response register holds `packRsp` of the fields, with the flags of the block after the command. -/
theorem responseWordFieldsStandWhereTheLayoutSays : Obligations.ResponseWordFieldsStandWhereTheLayoutSays := by
  intro s st data draws
  refine ⟨data_packRsp .., status_packRsp .., ?_, flt_packRsp .., reserved_packRsp .., draws_packRsp ..⟩
  rw [respond_rspData, State.rspWord, seeded_packRsp, seeded_eq_true, respond_S]

/-- Settles O7: the assembler, run on each text. -/
theorem assemblyTextGivesTheCommandWords : Obligations.AssemblyTextGivesTheCommandWords :=
  ⟨by decide, by decide, by decide, by decide, by decide, by decide, by decide, by decide, by decide⟩

end Sys2Proof.Machine
end

section
/-! PROOFS. The generator and its commands (40_generator.md): GEN_STEP as a function, what each command answers, and
the runs of `seed` and of a NEXT on an unseeded block. The lemmas come first, in the order of the definitions they
speak of; the theorems that settle the statements of this family stand at the end. -/

namespace Sys2Proof.Machine

/-! ### GEN_STEP as a function of the four words -/

/-- The result and the transition, with the rotations of the library (40_generator.md R81). -/
theorem genOutput_eq (q : Quad) : genOutput q = (q.w0 * 5).rotateLeft 7 * 9 :=
  congrArg (· * 9) (rotl_eq_rotateLeft (q.w0 * 5) (by decide))

theorem genNext_eq (q : Quad) : genNext q =
    ⟨q.w0 ^^^ q.w1 ^^^ q.w3, q.w0 ^^^ q.w1 ^^^ q.w2, q.w0 ^^^ q.w2 ^^^ (q.w1 <<< 9),
      (q.w1 ^^^ q.w3).rotateLeft 11⟩ := by
  have hrot (a : Word) : rotl a Config.stateRot = a.rotateLeft 11 := rotl_eq_rotateLeft a (by decide)
  simp only [genNext, hrot, Config.stateShift, Quad.mk.injEq]
  exact ⟨by ac_rfl, by ac_rfl, by ac_rfl, by rw [BitVec.xor_comm]⟩

/-- A rotation is undone by the one in the other direction. -/
theorem rotateRight_rotateLeft (a : Word) (k : Nat) : (a.rotateLeft k).rotateRight k = a := by
  ext i hi
  simp only [BitVec.getElem_rotateRight, BitVec.getElem_rotateLeft]
  by_cases h : i < 32 - k % 32
  · rw [dif_pos h, dif_neg (by omega)]
    congr 1
    omega
  · rw [dif_neg h, dif_pos (by omega)]
    congr 1
    omega

theorem rotateLeft_injective (k : Nat) : Function.Injective (fun a : Word => a.rotateLeft k) :=
  Function.LeftInverse.injective (g := fun a => a.rotateRight k) fun a => rotateRight_rotateLeft a k

/-- Both multipliers are odd, so each factor of the output can be undone (40_generator.md R82). -/
theorem outputInverse_genOutput (q : Quad) :
    (genOutput q * 0x38E38E39).rotateRight 7 * 0xCCCCCCCD = q.w0 := by
  have h9 : (9 : Word) * 0x38E38E39 = 1#32 := by decide
  have h5 : (5 : Word) * 0xCCCCCCCD = 1#32 := by decide
  rw [genOutput_eq, BitVec.mul_assoc, h9, BitVec.mul_one, rotateRight_rotateLeft, BitVec.mul_assoc, h5,
    BitVec.mul_one]

theorem genOutput_eq_zero_iff {q : Quad} : genOutput q = 0 ↔ q.w0 = 0 := by
  constructor
  · intro h
    have hw := outputInverse_genOutput q
    rw [h] at hw
    exact hw.symm
  · intro h
    rw [genOutput_eq, h]
    decide

/-- The shift of GEN_STEP, folded into its word, loses nothing. -/
theorem eq_of_xor_shiftLeft_eq {a b : Word} (h : a ^^^ a <<< 9 = b ^^^ b <<< 9) : a = b := by
  have hz : a ^^^ b = 0 := by
    refine eq_zero_of_shiftLeft_eq_self (BitVec.xor_eq_zero_iff.mp ?_)
    calc a ^^^ b ^^^ (a ^^^ b) <<< 9
        = (a ^^^ a <<< 9) ^^^ (b ^^^ b <<< 9) := by rw [BitVec.shiftLeft_xor_distrib]; ac_rfl
      _ = 0#32 := by rw [h, BitVec.xor_self]
  exact BitVec.xor_eq_zero_iff.mp hz

/-- A word that stands in both sums cancels. -/
theorem xor_xor_cancel (a b c : Word) : (a ^^^ b) ^^^ (b ^^^ c) = a ^^^ c := by
  rw [BitVec.xor_assoc, ← BitVec.xor_assoc b, BitVec.xor_self, BitVec.zero_xor]

/-- Four words after GEN_STEP determine the four before it: `s1 ^ s3` comes from the rotated word, then `s0`, then `s1`
from the two words that hold `s2` (40_generator.md R82). -/
theorem genNext_injective : Function.Injective genNext := by
  intro ⟨a, b, c, d⟩ ⟨a', b', c', d'⟩ h
  simp only [genNext_eq, Quad.mk.injEq] at h ⊢
  obtain ⟨h0, h1, h2, h3⟩ := h
  have hbd : b ^^^ d = b' ^^^ d' := rotateLeft_injective 11 h3
  have ha : a = a' := by rwa [BitVec.xor_assoc, BitVec.xor_assoc, hbd, BitVec.xor_left_inj] at h0
  subst ha
  rw [BitVec.xor_assoc, BitVec.xor_assoc, BitVec.xor_right_inj] at h1 h2
  have hb : b = b' := by
    refine eq_of_xor_shiftLeft_eq ?_
    rw [← xor_xor_cancel b c, h1, h2, xor_xor_cancel]
  subst hb
  exact ⟨rfl, rfl, (BitVec.xor_right_inj b).mp h1, (BitVec.xor_right_inj b).mp hbd⟩

theorem quad_finite : Finite Quad :=
  Finite.of_injective (fun q : Quad => (q.w0, q.w1, q.w2, q.w3)) fun ⟨_, _, _, _⟩ ⟨_, _, _, _⟩ h => by
    simpa using h

theorem genNext_eq_zero_iff {q : Quad} : genNext q = zeroQuad ↔ q = zeroQuad :=
  ⟨eq_zero_of_genNext_eq_zero, by rintro rfl; decide⟩

/-- NEXT once S is seeded: S stays non-zero, so SEEDED holds in the response (40_generator.md R89). -/
theorem rawSample_of_seeded {s : State} (hS : s.S ≠ zeroQuad) :
    s.rawSample = { s with
      S := genNext s.S
      draws := satInc s.draws
      seq := .rspPend
      work := .none
      rspData := packRsp (satInc s.draws) s.fault true 0x0 (genOutput s.S) } := by
  rw [State.rawSample, State.respond, rspWord_of_seeded (s := s.genStep) (genNext_ne_zero hS)]
  rfl

/-! ### Which command asks for entropy -/

theorem entReqValid_iff {s : State} :
    s.entReqValid false = true ↔ s.seq = .exec ∧ ∃ k, s.work = .seeding k := by
  unfold State.entReqValid
  cases s.seq <;> cases s.work <;> simp

section asking

variable (s : State) (k j : Seeder)

theorem loopCheck_work_ne_seeding : s.loopCheck.work ≠ .seeding j := by
  obtain ⟨_, _, h, _⟩ | ⟨_, h⟩ := loopCheck_cases s <;> simp [h]

theorem firstSample_work_ne_seeding : s.firstSample.work ≠ .seeding j := by
  rw [State.firstSample, State.fastCheck]
  split
  · exact loopCheck_work_ne_seeding _ j
  · exact nofun

theorem resume_work_ne_seeding : (s.resume k).work ≠ .seeding j := by
  cases k with
  | init => exact nofun
  | next => exact nofun
  | bounded => exact firstSample_work_ne_seeding s j

/-- ENSURE_SEEDED issues no request once SEEDED holds (40_generator.md R83). -/
theorem unseeded_of_ensureSeeded_asks (h : (s.ensureSeeded k).entReqValid false = true) : s.S = zeroQuad := by
  by_contra hS
  obtain ⟨_, j, hw⟩ := entReqValid_iff.mp h
  rw [ensureSeeded_of_seeded s k hS] at hw
  exact resume_work_ne_seeding s k j hw

end asking

/-- Only ENSURE_SEEDED asks, and only INIT, NEXT and a BOUNDED past its first check run it (40_generator.md R91). -/
theorem ExecCase.asks {s t : State} {i : Instr} (h : ExecCase s i t) (ha : t.entReqValid false = true) :
    s.S = zeroQuad ∧ (i = .init ∨ i = .next ∨ ∃ limit, limit ≠ 0 ∧ i = .bounded limit) := by
  cases h with
  | init => exact ⟨unseeded_of_ensureSeeded_asks s .init ha, .inl rfl⟩
  | next => exact ⟨unseeded_of_ensureSeeded_asks s .next ha, .inr (.inl rfl)⟩
  | bounded limit hl =>
    have hS := unseeded_of_ensureSeeded_asks { s with smp := { s.smp with lim := limit } } .bounded ha
    exact ⟨hS, .inr (.inr ⟨limit, hl, rfl⟩)⟩
  | _ => exact absurd ha nofun

/-! ### The entropy answer -/

/-- The command a waiting `Seeder` stands for, run on a seeded block (40_generator.md R83). -/
theorem exec_instr_of_seeded {s : State} {k : Seeder} (hS : s.S ≠ zeroQuad) (hl : k = .bounded → s.smp.lim ≠ 0) :
    exec (k.instr s.smp) s = .next (s.resume k) := by
  rw [← ensureSeeded_of_seeded s k hS]
  cases k with
  | init => exact exec_init s
  | next => exact exec_next s
  | bounded => exact exec_bounded s (hl rfl)

/-- An answer that counts is taken by the command inside ENSURE_SEEDED (20_memory.md R46). -/
theorem step_answer_of_seeding {s : State} {e : Edge} {rest : List Edge} {k : Seeder} (hq : s.seq = .entWait)
    (ho : s.entOut = true) (hw : s.work = .seeding k) (he : s.edges = e :: rest) (hr : e.rst = false)
    (hk : s.OfferHeld e) (hv : e.entRspValid = true) :
    step s = .next ({ s with entOut := false, seq := .exec, edges := rest, offered := e.nowOffered }.useAnswer k
      e.entRspCount e.entRspData) := by
  rw [step_entWait_answer he hr hk hq hv ho, takeAnswer_of_seeding (noteOffer { s with edges := rest } e) k hw]
  rfl

/-! ### A command sent and answered -/

theorem offerHeld_of_none {s : State} (h : s.offered = none) (e : Edge) : s.OfferHeld e :=
  fun _ hw => absurd (h.symm.trans hw) nofun

/-- The edge at which the host takes the response. -/
theorem after_respond {s : State} {rest : List Edge} (hq : s.seq = .rspPend) (ho : s.offered = none)
    (he : s.edges = Edge.respond :: rest) (n : Nat) :
    s.after (n + 1) = { s with offered := none, edges := rest }.transfer.after n :=
  after_succ (step_rspPend_transfer he rfl (offerHeld_of_none ho _) hq rfl) n

/-- A fault-free block between commands, with no word on offer and the edges `es` to come. -/
structure State.Ready (s : State) (es : List Edge) : Prop where
  seq : s.seq = .idle
  fault : s.fault = false
  offered : s.offered = none
  edges : s.edges = es

namespace State.Ready

variable {s : State} {rest : List Edge}

/-- The command offered next runs (60_exceptions.md R136). -/
theorem step_runs {i : Instr} (h : s.Ready (Edge.command (encode i) :: rest)) :
    step s = exec i ({ s with edges := rest }.accept (encode i)) :=
  step_accept_runs h.edges rfl (offerHeld_of_none h.offered _) h.seq rfl h.fault (decode_encode i)

/-- A command that answers at once, and the edge that takes its response. -/
theorem after_answered {i : Instr} {t : State} (h : s.Ready (Edge.command (encode i) :: Edge.respond :: rest))
    (hx : exec i ({ s with edges := Edge.respond :: rest }.accept (encode i)) = .next t) (hq : t.seq = .rspPend) :
    ∃ u : State, (∀ n, s.after (n + 2) = u.after n) ∧ u.Ready rest ∧ u.S = t.S ∧ u.stage = t.stage := by
  have hc := execCase_of_exec hx
  refine ⟨{ t with offered := none, edges := rest }.transfer, fun n => ?_,
    ⟨rfl, hc.fault_eq.trans h.fault, rfl, rfl⟩, rfl, rfl⟩
  rw [after_succ (h.step_runs.trans hx) (n + 1), after_respond hq hc.offered_eq hc.edges_eq]

theorem after_seedw {idx : Fin 4} {imm : Word}
    (h : s.Ready (Edge.command (encode (.seedw idx imm)) :: Edge.respond :: rest)) :
    ∃ u : State, (∀ n, s.after (n + 2) = u.after n) ∧ u.Ready rest ∧ u.stage = setWordAt s.stage idx imm := by
  obtain ⟨u, hu, hr, -, hst⟩ := h.after_answered (exec_seedw _ idx imm) rfl
  exact ⟨u, hu, hr, hst⟩

theorem after_seedc (h : s.Ready (Edge.command (encode .seedc) :: Edge.respond :: rest))
    (hz : s.stage ≠ zeroQuad) :
    ∃ u : State, (∀ n, s.after (n + 2) = u.after n) ∧ u.Ready rest ∧ u.S = s.stage ∧ u.stage = s.stage :=
  h.after_answered (exec_seedc_commits _ hz) rfl

end State.Ready

/-! ### Reads of the entropy source -/

/-- The block with a command inside EntropyDraw() and its request not yet issued, no word on offer, ENT_OUT at `o`, the
edges `es` to come and `tr` observed. -/
def State.asking (s : State) (k : Seeder) (o : Bool) (es : List Edge) (tr : List Event) : State :=
  { s with seq := .exec, work := .seeding k, entOut := o, offered := none, edges := es, trace := tr }

/-- NEXT, accepted on an unseeded block, asks for entropy (40_generator.md R91). -/
theorem State.Ready.step_next_of_unseeded {s : State} {es : List Edge}
    (h : s.Ready (Edge.command (encode .next) :: es)) (hS : s.S = zeroQuad) :
    step s = .next ({ s with draws := 0 }.asking .next s.entOut es (.accepted (encode .next) :: s.trace)) := by
  refine h.step_runs.trans ((exec_next _).trans ?_)
  exact congrArg _ (ensureSeeded_of_unseeded ({ s with edges := es }.accept _) .next hS)

section reads

variable (s : State) (k : Seeder) (o : Bool) (es : List Edge) (tr : List Event)

/-- One turn of ENSURE_SEEDED's loop: the request is taken and its answer comes (40_generator.md R83). -/
theorem after_read (c : BitVec 5) (d : EntData) (n : Nat) :
    (s.asking k o (Edge.request :: Edge.answer c d :: es) tr).after (n + 2) =
      ((s.asking k false es (.entropyRequest :: tr)).useAnswer k c d).after n := by
  have hissue := step_exec_issue (s := s.asking k o (Edge.request :: Edge.answer c d :: es) tr) (k := k) rfl rfl
    (offerHeld_of_none rfl _) rfl rfl rfl
  refine (after_succ hissue (n + 1)).trans (after_succ ?_ n)
  exact step_answer_of_seeding (e := Edge.answer c d) rfl rfl rfl rfl rfl (offerHeld_of_none rfl _) rfl

/-- Any number of all-zero reads leaves the command asking: one request for each (40_generator.md R83). -/
theorem after_retries (retries n : Nat) :
    ∃ o', (s.asking k o ((List.replicate retries [Edge.request, Edge.answer 16 0]).flatten ++ es) tr).after
        (2 * retries + n) =
      (s.asking k o' es (List.replicate retries .entropyRequest ++ tr)).after n := by
  induction retries generalizing o tr with
  | zero => exact ⟨o, by simp⟩
  | succ r ih =>
    obtain ⟨o', h⟩ := ih false (.entropyRequest :: tr)
    refine ⟨o', ?_⟩
    rw [List.replicate_succ' (a := Event.entropyRequest), List.append_assoc, List.singleton_append, ← h,
      show 2 * (r + 1) + n = 2 * r + n + 2 by omega]
    refine (after_read s k o _ tr 16 0 _).trans ?_
    exact congrArg (State.after · (2 * r + n)) (useAnswer_zero _ k)

/-- A read that is not all zero ends a NEXT: its sample is drawn from the words read, and the response transfers
(40_generator.md R89). -/
theorem after_next_read {d : EntData} (hd : d ≠ 0) (n : Nat) :
    (s.asking .next o (Edge.request :: Edge.answer 16 d :: Edge.respond :: es) tr).after (n + 3) =
      { s.asking .next false es (.entropyRequest :: tr) with S := entWords d }.rawSample.transfer.after n := by
  refine (after_read s .next o (Edge.respond :: es) tr 16 d (n + 1)).trans ?_
  refine (congrArg (State.after · (n + 1)) (useAnswer_full _ .next hd)).trans ?_
  exact after_respond rfl rfl rfl n

end reads

/-! ### The statements -/

/-- Settles O8: the model's rotation is the library's, and the order of the updates does not matter to the sums. -/
theorem genStepHasTheClosedForm : Obligations.GenStepHasTheClosedForm :=
  fun _ _ _ _ => ⟨genNext_eq _, genOutput_eq _⟩

/-- Settles O9: the two products and the rotation of the output are undone one by one. -/
theorem outputDeterminesTheFirstWord : Obligations.OutputDeterminesTheFirstWord :=
  fun q => ⟨outputInverse_genOutput q, genOutput_eq_zero_iff⟩

/-- Settles O10: an injective map of finitely many states is bijective. -/
theorem transitionIsBijectiveAndZeroComesOnlyFromZero :
    Obligations.TransitionIsBijectiveAndZeroComesOnlyFromZero :=
  have := quad_finite
  ⟨genNext_injective.bijective_of_finite, fun _ => genNext_eq_zero_iff⟩

/-- Settles O11: the three vectors, evaluated. -/
theorem regressionVectorsOfGenStep : Obligations.RegressionVectorsOfGenStep := by
  unfold Obligations.RegressionVectorsOfGenStep
  decide

/-- Settles O13: ENSURE_SEEDED does nothing on a seeded block. -/
theorem initOnASeededBlockAnswersOk : Obligations.InitOnASeededBlockAnswersOk := by
  intro s hS
  rw [exec_init_of_seeded hS, State.respond, rspWord_of_seeded hS]
  rfl

/-- Settles O14: a request comes from ENSURE_SEEDED at the head of its loop, with S all zero. -/
theorem onlyInitNextAndBoundedAskForEntropy : Obligations.OnlyInitNextAndBoundedAskForEntropy := by
  refine ⟨fun s hS => ⟨?_, ?_, fun limit hl => ?_⟩, fun s t i h => (execCase_of_exec h).asks⟩
  · exact (exec_init s).trans (congrArg _ (ensureSeeded_of_unseeded s .init hS))
  · exact (exec_next s).trans (congrArg _ (ensureSeeded_of_unseeded s .next hS))
  · have hasks := ensureSeeded_of_unseeded { s with smp := { s.smp with lim := limit } } .bounded hS
    exact (exec_bounded s hl).trans (congrArg _ hasks)

/-- Settles O15: the staged words are those of `setWordAt`. -/
theorem seedwWritesOneStagingWord : Obligations.SeedwWritesOneStagingWord :=
  fun s idx imm => ⟨setWordAt s.stage idx imm, exec_seedw s idx imm, fun j => wordAt_setWordAt s.stage idx j imm⟩

/-- Settles O16: the new S is STAGE, so SEEDED holds in the response. -/
theorem seedcCopiesStageIntoTheState : Obligations.SeedcCopiesStageIntoTheState := by
  intro s h
  rw [exec_seedc_commits s h, State.respond, rspWord_of_seeded (s := { s with S := s.stage }) h]
  rfl

/-- Settles O18: one GEN_STEP in its closed form; S stays non-zero, so SEEDED holds in the response. -/
theorem nextReturnsTheRawSampleAndStepsTheState : Obligations.NextReturnsTheRawSampleAndStepsTheState := by
  intro s s0 s1 s2 s3 hs hS hd
  rw [exec_next, ensureSeeded_of_seeded s .next hS, State.resume, rawSample_of_seeded hS, hd, genNext_eq,
    genOutput_eq, hs]
  rfl

/-- Settles O19: `wordAt` at each of the four indexes. -/
theorem rdstateAnswersTheSelectedWord : Obligations.RdstateAnswersTheSelectedWord :=
  fun s => ⟨exec_rdstate s 0, exec_rdstate s 1, exec_rdstate s 2, exec_rdstate s 3⟩

/-- Settles O33: the step and the command are both what goes on after ENSURE_SEEDED, with S at the words read. -/
theorem fullReadSeedsTheStateAndTheCommandGoesOn : Obligations.FullReadSeedsTheStateAndTheCommandGoesOn := by
  intro s e rest k hq ho hw hl he hr hk hv hc hd
  rw [step_answer_of_seeding hq ho hw he hr hk hv, hc]
  have hS : entWords e.entRspData ≠ zeroQuad := mt entWords_eq_zero.mp hd
  refine (congrArg _ (useAnswer_full _ k hd)).trans (Eq.symm ?_)
  exact exec_instr_of_seeded (s := { s with
    S := entWords e.entRspData, entOut := false, seq := .exec, edges := rest, offered := e.nowOffered }) hS hl

/-- Settles O34: the loop is at its head again, with S still all zero. -/
theorem allZeroFullReadIsRetried : Obligations.AllZeroFullReadIsRetried := by
  intro s e rest k hq ho hw he hr hk hv hc hd
  refine ⟨_, rfl, ?_, entReqValid_iff.mpr ⟨rfl, k, hw⟩⟩
  rw [step_answer_of_seeding hq ho hw he hr hk hv, hc, hd]
  refine (congrArg _ (useAnswer_zero _ k)).trans ?_
  rw [State.askEntropy, ← hw]

/-- Settles O54: each SEEDW fills its word of STAGE, whatever stood there, and SEEDC finds the four of them. -/
theorem seedSequenceLoadsTheFourWords : Obligations.SeedSequenceLoadsTheFourWords := by
  intro s a b c d hq hf ho hz he
  have h0 : s.Ready _ := ⟨hq, hf, ho, he⟩
  obtain ⟨s1, run1, h1, st1⟩ := State.Ready.after_seedw h0
  obtain ⟨s2, run2, h2, st2⟩ := h1.after_seedw
  obtain ⟨s3, run3, h3, st3⟩ := h2.after_seedw
  obtain ⟨s4, run4, h4, st4⟩ := h3.after_seedw
  have hst : s4.stage = ⟨a, b, c, d⟩ := by
    rw [st4, st3, st2, st1]
    rfl
  obtain ⟨t, run5, h5, hS, hstage⟩ := h4.after_seedc (hst ▸ hz)
  refine ⟨t, ?_, hS.trans hst, hstage.trans hst, ⟨h5.seq, h5.offered, h5.edges⟩, ?_⟩
  · rw [run1, run2, run3, run4, run5, after_zero]
  · rw [State.faultFree, h5.fault]
    rfl

/-- Settles O55: the acceptance, the all-zero reads, the good read and the transfer, one after the other. -/
theorem lazyNextEndsOnceTheEnvironmentAnswers : Obligations.LazyNextEndsOnceTheEnvironmentAnswers := by
  intro s data retries hq hf ho hS hd he
  have hstart := State.Ready.step_next_of_unseeded ⟨hq, hf, ho, he⟩ hS
  obtain ⟨o, hretries⟩ := after_retries { s with draws := 0 } .next s.entOut
    [Edge.request, Edge.answer 16 data, Edge.respond] (.accepted (encode .next) :: s.trace) retries 3
  refine ⟨_, (after_succ hstart _).trans (hretries.trans (after_next_read _ o [] _ hd 0)), ⟨rfl, rfl, rfl⟩, hf, rfl,
    rfl, ?_⟩
  have hrsp : packRsp (satInc 0) s.fault true 0x0 (genOutput (entWords data)) =
      packRsp 1 false true 0x0 (genOutput (entWords data)) := by
    rw [hf]
    rfl
  rw [rawSample_of_seeded (mt entWords_eq_zero.mp hd), List.replicate_succ, ← hrsp]
  rfl

end Sys2Proof.Machine
end

section
/-! PROOFS. The bounded sampler (41_sampler.md): its arithmetic, the count of the raw values that a limit rejects, the
rejection loop of one BOUNDED, and its response. The lemmas come first, in the order of the definitions they speak of;
the theorems that settle the statements of this family stand at the end. -/

namespace Sys2Proof.Machine

/-! ### The product and the residue -/

theorem lo32_mul64_toNat (raw limit : Word) :
    (lo32 (mul64 raw limit)).toNat = raw.toNat * limit.toNat % 2 ^ 32 := by
  rw [lo32_toNat, mul64_toNat]

theorem hi32_mul64_toNat (raw limit : Word) :
    (hi32 (mul64 raw limit)).toNat = raw.toNat * limit.toNat / 2 ^ 32 := by
  rw [hi32_toNat, mul64_toNat]

theorem hi32_mul64_eq (raw limit : Word) :
    hi32 (mul64 raw limit) = BitVec.ofNat 32 (raw.toNat * limit.toNat / 2 ^ 32) := by
  rw [← hi32_mul64_toNat, BitVec.ofNat_toNat, BitVec.setWidth_eq]

section residue

variable {limit : Word} (h : limit ≠ 0)

include h

/-- The residue unit's 32-bit form is the GLOSSARY's (41_sampler.md R102). -/
theorem residue_toNat : (urem (-limit) limit).toNat = 2 ^ 32 % limit.toNat := by
  rw [urem_toNat _ h, BitVec.toNat_neg_of_pos ((BitVec.pos_iff_ne_zero limit).mpr h),
    ← Nat.mod_eq_sub_mod limit.isLt.le]

theorem residue_lt : urem (-limit) limit < limit := by
  rw [BitVec.lt_def, residue_toNat h]
  exact Nat.mod_lt _ (BitVec.toNat_pos_of_ne_zero h)

/-- LOOP_CHECK rejects exactly the raw values of 41_sampler.md R107. -/
theorem lo32_lt_residue_iff (raw : Word) :
    lo32 (mul64 raw limit) < urem (-limit) limit ↔ Rejects limit.toNat raw.toNat := by
  rw [BitVec.lt_def, lo32_mul64_toNat, residue_toNat h]

/-- FAST_CHECK accepts no sample that the limit rejects (41_sampler.md R101). -/
theorem lo32_lt_limit_of_rejects {raw : Word} (hr : Rejects limit.toNat raw.toNat) :
    lo32 (mul64 raw limit) < limit :=
  BitVec.lt_trans ((lo32_lt_residue_iff h raw).mpr hr) (residue_lt h)

end residue

/-- FAST_CHECK's test over the natural numbers (41_sampler.md R101). -/
theorem not_lo32_lt_limit_iff {raw limit : Word} :
    ¬ lo32 (mul64 raw limit) < limit ↔ limit.toNat ≤ raw.toNat * limit.toNat % 2 ^ 32 := by
  rw [BitVec.not_lt, BitVec.le_def, lo32_mul64_toNat]

/-! ### The limits that the spec works out (41_sampler.md R104) -/

/-- No limit rejects more raw values than 0x80000001 does. -/
theorem two_pow_mod_le {limit : Nat} (hpos : 0 < limit) (hlt : limit < 2 ^ 32) : 2 ^ 32 % limit ≤ 0x7FFFFFFF := by
  by_cases h : limit ≤ 2 ^ 31
  · exact Nat.le_of_lt_succ ((Nat.mod_lt _ hpos).trans_le h)
  · rw [Nat.mod_eq_sub_mod hlt.le, Nat.mod_eq_of_lt (by omega)]
    omega

section powerOfTwo

variable {k : Nat} (h : k < 32)

include h

theorem toNat_one_shiftLeft : (1#32 <<< k).toNat = 2 ^ k := by
  rw [← BitVec.twoPow_eq, BitVec.toNat_twoPow_of_lt h]

theorem residue_one_shiftLeft : urem (-(1#32 <<< k)) (1#32 <<< k) = 0 := by
  have hne : 1#32 <<< k ≠ 0 := by
    rw [BitVec.toNat_ne, toNat_one_shiftLeft h]
    exact (Nat.two_pow_pos k).ne'
  refine BitVec.eq_of_toNat_eq ?_
  rw [residue_toNat hne, toNat_one_shiftLeft h]
  exact Nat.mod_eq_zero_of_dvd (Nat.pow_dvd_pow 2 h.le)

theorem hi32_mul64_one_shiftLeft (raw : Word) : hi32 (mul64 raw (1#32 <<< k)) = raw >>> (32 - k) := by
  refine BitVec.eq_of_toNat_eq ?_
  rw [hi32_mul64_toNat, toNat_one_shiftLeft h, BitVec.toNat_ushiftRight, Nat.shiftRight_eq_div_pow,
    show 2 ^ 32 = 2 ^ (32 - k) * 2 ^ k by rw [← Nat.pow_add, Nat.sub_add_cancel h.le],
    Nat.mul_div_mul_right _ _ (Nat.two_pow_pos k)]

end powerOfTwo

/-- A product by 0xFFFFFFFF, split into its fraction and its result. -/
theorem mul_max_eq {raw : Nat} (h : raw < 2 ^ 32) (hpos : 0 < raw) :
    raw * 0xFFFFFFFF = 2 ^ 32 - raw + 2 ^ 32 * (raw - 1) := by
  omega

theorem rejects_max_iff {raw : Nat} (h : raw < 2 ^ 32) : Rejects 0xFFFFFFFF raw ↔ raw = 0 := by
  obtain rfl | hpos := Nat.eq_zero_or_pos raw
  · exact iff_of_true (by decide) rfl
  · refine iff_of_false ?_ hpos.ne'
    rw [Rejects, mul_max_eq h hpos, Nat.add_mul_mod_self_left, Nat.mod_eq_of_lt (by omega)]
    omega

theorem hi32_mul64_max {raw : Word} (h : raw ≠ 0) : hi32 (mul64 raw 0xFFFFFFFF) = raw - 1 := by
  have hpos := BitVec.toNat_pos_of_ne_zero h
  have hmax : (0xFFFFFFFF : Word).toNat = 0xFFFFFFFF := rfl
  refine BitVec.eq_of_toNat_eq ?_
  rw [hi32_mul64_toNat, hmax, mul_max_eq raw.isLt hpos, Nat.add_mul_div_left _ _ (by decide),
    Nat.div_eq_of_lt (by omega)]
  bv_omega

/-! ### How many raw values a limit rejects (41_sampler.md R107) -/

theorem add_mul_ceilDiv (a q : Nat) {L : Nat} (hL : 0 < L) : (a + q * L) ⌈/⌉ L = a ⌈/⌉ L + q := by
  rw [Nat.ceilDiv_eq_add_pred_div, Nat.ceilDiv_eq_add_pred_div, ← Nat.add_mul_div_right _ _ hL]
  congr 1
  omega

/-- The numbers whose quotient by `N` is `j` and whose remainder is not below `m` are neighbours. -/
theorem not_mod_lt_and_div_eq_iff {N m : Nat} (hN : 0 < N) (p j : Nat) :
    (¬ p % N < m ∧ p / N = j) ↔ j * N + m ≤ p ∧ p < j * N + N := by
  have hp := Nat.div_add_mod' p N
  have hlt := Nat.mod_lt p hN
  constructor
  · rintro ⟨hm, rfl⟩
    omega
  · rintro ⟨hm, hj⟩
    have hdiv : p / N = j := Nat.div_eq_of_lt_le (by omega) (by rw [Nat.succ_mul]; omega)
    rw [hdiv] at hp
    exact ⟨by omega, hdiv⟩

section counting

variable {N L : Nat} (hN : 0 < N) (hL : 0 < L)

include hN hL

/-- The raw values accepted with the result `j` are `N / L` neighbours: their products are the multiples of the limit
from `j * N + N % L` up to `(j + 1) * N`, and that stretch is `N / L` times the limit long. -/
theorem accepted_iff_mem_Ico (j raw : Nat) :
    (¬ raw * L % N < N % L ∧ raw * L / N = j) ↔
      raw ∈ Finset.Ico ((j * N + N % L) ⌈/⌉ L) ((j * N + N % L) ⌈/⌉ L + N / L) := by
  have hend : j * N + N = j * N + N % L + N / L * L := by
    rw [Nat.add_assoc, Nat.mod_add_div']
  rw [not_mod_lt_and_div_eq_iff hN, Finset.mem_Ico, hend, ← add_mul_ceilDiv _ _ hL, ceilDiv_le_iff_le_mul hL,
    ← not_le, ← not_le, ceilDiv_le_iff_le_mul hL, Nat.mul_comm raw L]

/-- Each result has equally many accepted raw values. -/
theorem card_accepted {j : Nat} (hj : j < L) :
    ((Finset.range N).filter fun raw => ¬ raw * L % N < N % L ∧ raw * L / N = j).card = N / L := by
  have hIco : (Finset.range N).filter (fun raw => ¬ raw * L % N < N % L ∧ raw * L / N = j) =
      Finset.Ico ((j * N + N % L) ⌈/⌉ L) ((j * N + N % L) ⌈/⌉ L + N / L) := by
    ext raw
    rw [Finset.mem_filter, Finset.mem_range, ← accepted_iff_mem_Ico hN hL]
    refine and_iff_right_of_imp fun ⟨_, hdiv⟩ => ?_
    have hlt : raw * L < L * N := (Nat.div_lt_iff_lt_mul hN).mp (hdiv.trans_lt hj)
    exact Nat.lt_of_mul_lt_mul_right (hlt.trans_eq (Nat.mul_comm L N))
  rw [hIco, Nat.card_Ico, Nat.add_sub_cancel_left]

/-- The rejected raw values are what the accepted ones of all the results leave over. -/
theorem card_rejected : ((Finset.range N).filter fun raw => raw * L % N < N % L).card = N % L := by
  have hmaps : (((Finset.range N).filter fun raw => ¬ raw * L % N < N % L : Finset Nat) : Set Nat).MapsTo
      (fun raw => raw * L / N) (Finset.range L) := by
    intro raw hraw
    have hlt : raw < N := Finset.mem_range.mp (Finset.mem_filter.mp hraw).1
    exact Finset.mem_coe.mpr (Finset.mem_range.mpr (Nat.div_lt_of_lt_mul (Nat.mul_lt_mul_of_pos_right hlt hL)))
  have haccepted : ((Finset.range N).filter fun raw => ¬ raw * L % N < N % L).card = L * (N / L) := by
    rw [Finset.card_eq_sum_card_fiberwise hmaps, Finset.sum_congr rfl fun j hj => ?_, Finset.sum_const,
      Finset.card_range, smul_eq_mul]
    rw [Finset.filter_filter, card_accepted hN hL (Finset.mem_range.mp hj)]
  have htotal := Finset.card_filter_add_card_filter_not (s := Finset.range N) fun raw => raw * L % N < N % L
  rw [haccepted, Finset.card_range] at htotal
  have := Nat.div_add_mod N L
  omega

end counting

/-! ### The stream of draws -/

theorem genNext_stateAfter (q : Quad) (n : Nat) : genNext (stateAfter q n) = stateAfter q (n + 1) :=
  (Function.iterate_succ_apply' genNext n q).symm

theorem stateAfter_ne_zero {q : Quad} (h : q ≠ zeroQuad) (n : Nat) : stateAfter q n ≠ zeroQuad := by
  induction n with
  | zero => exact h
  | succ n ih =>
    rw [← genNext_stateAfter]
    exact genNext_ne_zero ih

theorem drawsAfter_toNat {n : Nat} (h : n ≤ 0xFFFFFF) : (drawsAfter n).toNat = n := by
  rw [drawsAfter, min_eq_left h, BitVec.toNat_ofNat]
  omega

theorem satInc_of_eq_zero {d : BitVec 24} (h : d = 0) : satInc d = 1 := by
  rw [h]
  rfl

/-! ### The first sample of a BOUNDED -/

/-- LIM is latched (41_sampler.md R104). -/
def State.latch (s : State) (limit : Word) : State := { s with smp := { s.smp with lim := limit } }

theorem exec_bounded_of_seeded {s : State} {limit : Word} (hS : s.S ≠ zeroQuad) (hl : limit ≠ 0) :
    exec (.bounded limit) s = .next (s.latch limit).firstSample :=
  (exec_bounded s hl).trans (congrArg _ (ensureSeeded_of_seeded (s.latch limit) .bounded hS))

/-- The answer of a seeded block (41_sampler.md R104 step 6). -/
theorem sampleDone_of_seeded {s : State} (h : s.S ≠ zeroQuad) :
    s.sampleDone = { s with
      smp := s.smp.enter .done
      seq := .rspPend
      work := .none
      rspData := packRsp s.draws s.fault true 0x0 (hi32 s.smp.num) } := by
  rw [State.sampleDone, State.respond, rspWord_of_seeded (s := s.enter .done) h]
  rfl

/-- The phases of the slow path, up to the LOOP_CHECK of redraw number `n` (41_sampler.md R109). -/
def slowPhases (n : Nat) : List Phase :=
  [.draw, .fastCheck, .residueCalc, .loopCheck] ++ (List.replicate n [.draw, .loopCheck]).flatten

theorem slowPhases_succ (n : Nat) : slowPhases (n + 1) = slowPhases n ++ [.draw, .loopCheck] := by
  simp [slowPhases, List.replicate_succ']

theorem count_draw_slowPhases (n : Nat) : (slowPhases n).count .draw = n + 1 := by
  induction n with
  | zero => rfl
  | succ n ih =>
    rw [slowPhases_succ, List.count_append, ih]
    rfl

/-- The sampler as it accepts a first sample, by the fast path or the slow one (41_sampler.md R104). -/
structure Sampler.AcceptsFirst (smp : Sampler) (raw limit : Word) : Prop where
  num : smp.num = mul64 raw limit
  phases : limit.toNat ≤ raw.toNat * limit.toNat % 2 ^ 32 ∧ smp.phases.reverse = [.draw, .fastCheck] ∨
    ¬ limit.toNat ≤ raw.toNat * limit.toNat % 2 ^ 32 ∧ smp.phases.reverse = slowPhases 0

/-- The sampler with a redraw due after `n` redraws (41_sampler.md R103). -/
structure Sampler.RedrawDue (smp : Sampler) (limit : Word) (n : Nat) : Prop where
  lim : smp.lim = limit
  residue : smp.residue = urem (-limit) limit
  phase : smp.phase = .loopCheck
  phases : smp.phases.reverse = slowPhases n

section firstSample

variable {s : State} {limit : Word} (hlim : s.smp.lim = limit) (hl : limit ≠ 0)

include hlim hl

theorem firstSample_of_rejects (h : Rejects limit.toNat (genOutput s.S).toNat) :
    ∃ smp : Sampler, smp.RedrawDue limit 0 ∧
      s.firstSample = { s.genStep with smp := smp, seq := .exec, work := .redrawing } := by
  subst hlim
  refine ⟨_, ?_, firstSample_rejects s (lo32_lt_limit_of_rejects hl h) ((lo32_lt_residue_iff hl _).mpr h)⟩
  exact ⟨rfl, rfl, rfl, rfl⟩

theorem firstSample_of_not_rejects (h : ¬ Rejects limit.toNat (genOutput s.S).toNat) :
    ∃ smp : Sampler, smp.AcceptsFirst (genOutput s.S) limit ∧
      s.firstSample = { s.genStep with smp := smp }.sampleDone := by
  subst hlim
  by_cases hslow : lo32 (mul64 (genOutput s.S) s.smp.lim) < s.smp.lim
  · refine ⟨_, ?_, firstSample_slow s hslow (mt (lo32_lt_residue_iff hl _).mp h)⟩
    exact ⟨rfl, .inr ⟨mt not_lo32_lt_limit_iff.mpr (not_not.mpr hslow), rfl⟩⟩
  · refine ⟨_, ?_, firstSample_fast s hslow⟩
    exact ⟨rfl, .inl ⟨not_lo32_lt_limit_iff.mp hslow, rfl⟩⟩

end firstSample

/-! ### One redraw -/

/-- A redraw that is due, whole but for the sampler registers (41_sampler.md R103). -/
theorem redraw_eq {s : State} (hq : s.seq = .exec) (hw : s.work = .redrawing) : s.redraw =
    if lo32 (mul64 (genOutput s.S) s.smp.lim) < s.smp.residue then { s.genStep with smp := s.redraw.smp }
    else { s.genStep with
      smp := s.redraw.smp
      seq := .rspPend
      work := .none
      rspData := s.genStep.rspWord .ok (hi32 (mul64 (genOutput s.S) s.smp.lim)) (satInc s.draws) } := by
  split
  next h =>
    rw [redraw_rejects s h, ← hq, ← hw]
    rfl
  next h =>
    rw [redraw_accepts s h]
    rfl

theorem redraw_phase (s : State) : s.redraw.smp.phase =
    if lo32 (mul64 (genOutput s.S) s.smp.lim) < s.smp.residue then .loopCheck else .done := by
  split
  next h => rw [redraw_rejects s h]; rfl
  next h => rw [redraw_accepts s h]; rfl

/-! ### The rejection loop -/

/-- What `n` draws make of the block: S and DRAWS step, and STAGE, FAULT and the record are kept
(41_sampler.md R111, R112). -/
structure State.Drawn (s : State) (n : Nat) (t : State) : Prop where
  S : t.S = stateAfter s.S n
  stage : t.stage = s.stage
  fault : t.fault = s.fault
  draws : t.draws = drawsAfter n
  trace : t.trace = s.trace

/-- The block after draw number `n` (from 0) of a BOUNDED that began at `s`, the sample rejected. -/
structure State.Redrawing (s : State) (limit : Word) (n : Nat) (t : State) : Prop extends s.Drawn (n + 1) t where
  seq : t.seq = .exec
  work : t.work = .redrawing
  smp : t.smp.RedrawDue limit n
  slow : ¬ limit.toNat ≤ (genOutput s.S).toNat * limit.toNat % 2 ^ 32

/-- The block after draw number `n` (from 0) of a BOUNDED that began at `s`, the sample accepted: the fast path takes
the first draw alone (41_sampler.md R104, R109). -/
structure State.Answered (s : State) (limit : Word) (n : Nat) (t : State) : Prop extends s.Drawn (n + 1) t where
  seq : t.seq = .rspPend
  work : t.work = .none
  rspData : t.rspData = packRsp (drawsAfter (n + 1)) s.fault true 0x0
    (BitVec.ofNat 32 ((rawAt s.S n).toNat * limit.toNat / 2 ^ 32))
  phase : t.smp.phase = .done
  phases : n = 0 ∧ limit.toNat ≤ (genOutput s.S).toNat * limit.toNat % 2 ^ 32 ∧
      t.smp.phases.reverse = [.draw, .fastCheck, .done] ∨
    ¬ limit.toNat ≤ (genOutput s.S).toNat * limit.toNat % 2 ^ 32 ∧
      t.smp.phases.reverse = slowPhases n ++ [.done]

section loop

variable {s t u : State} {limit : Word} {n : Nat}

/-- One GEN_STEP is one draw more. -/
theorem State.Drawn.genStep (h : s.Drawn n t) (hS : u.S = genNext t.S) (hd : u.draws = satInc t.draws)
    (hst : u.stage = t.stage) (hf : u.fault = t.fault) (htr : u.trace = t.trace) : s.Drawn (n + 1) u where
  S := by rw [hS, h.S, genNext_stateAfter]
  stage := hst.trans h.stage
  fault := hf.trans h.fault
  draws := by rw [hd, h.draws, satInc_drawsAfter]
  trace := htr.trans h.trace

theorem State.Drawn.firstSample (h : s.draws = 0) : s.Drawn 1 (s.latch limit).firstSample :=
  have hnone : s.Drawn 0 (s.latch limit) := ⟨rfl, rfl, rfl, h, rfl⟩
  hnone.genStep (firstSample_S _) (firstSample_draws _) (firstSample_stage _) (firstSample_fault _)
    (firstSample_trace _)

theorem State.Drawn.redraw (h : s.Drawn n t) : s.Drawn (n + 1) t.redraw :=
  h.genStep (redraw_S t) (redraw_draws t) (redraw_stage t) (redraw_fault t) (redraw_trace t)

/-- The first draw, rejected. -/
theorem State.Redrawing.firstSample (hl : limit ≠ 0) (hd : s.draws = 0)
    (h : Rejects limit.toNat (rawAt s.S 0).toNat) : s.Redrawing limit 0 (s.latch limit).firstSample := by
  obtain ⟨smp, hsmp, hfirst⟩ := firstSample_of_rejects (s := s.latch limit) (limit := limit) rfl hl h
  have hslow := mt not_lo32_lt_limit_iff.mpr (not_not.mpr (lo32_lt_limit_of_rejects hl h))
  have hdrawn : s.Drawn 1 (s.latch limit).firstSample := .firstSample hd
  rw [hfirst] at hdrawn ⊢
  exact ⟨hdrawn, rfl, rfl, hsmp, hslow⟩

/-- The first draw, accepted. -/
theorem State.Answered.firstSample (hS : s.S ≠ zeroQuad) (hl : limit ≠ 0) (hd : s.draws = 0)
    (h : ¬ Rejects limit.toNat (rawAt s.S 0).toNat) : s.Answered limit 0 (s.latch limit).firstSample := by
  obtain ⟨smp, hsmp, hfirst⟩ := firstSample_of_not_rejects (s := s.latch limit) (limit := limit) rfl hl h
  have hdrawn : s.Drawn 1 (s.latch limit).firstSample := .firstSample hd
  rw [hfirst] at hdrawn ⊢
  refine ⟨hdrawn, rfl, rfl, ?_, rfl, ?_⟩
  · rw [sampleDone_of_seeded (genNext_ne_zero hS), ← hdrawn.draws, hsmp.num, hi32_mul64_eq]
    rfl
  · rw [sampleDone_smp, samplerEnter_phases, List.reverse_cons]
    exact hsmp.phases.imp (fun ⟨hfast, hp⟩ => ⟨rfl, hfast, congrArg (· ++ [Phase.done]) hp⟩)
      fun ⟨hslow, hp⟩ => ⟨hslow, congrArg (· ++ [Phase.done]) hp⟩

section redraw

variable (h : s.Redrawing limit n t) (hl : limit ≠ 0)

include h

/-- The script and the host's offer are not the command's. -/
theorem State.Redrawing.of_environment (o : Option CmdWord) (es : List Edge) :
    s.Redrawing limit n { t with offered := o, edges := es } := { h with }

include hl

/-- LOOP_CHECK's test of the next draw. -/
theorem State.Redrawing.test_iff : lo32 (mul64 (genOutput t.S) t.smp.lim) < t.smp.residue ↔
    Rejects limit.toNat (rawAt s.S (n + 1)).toNat := by
  rw [h.smp.lim, h.smp.residue, lo32_lt_residue_iff hl, h.S]
  rfl

/-- A redraw, rejected. -/
theorem State.Redrawing.redraw (hr : Rejects limit.toNat (rawAt s.S (n + 1)).toNat) :
    s.Redrawing limit (n + 1) t.redraw := by
  have hdrawn := h.toDrawn.redraw
  rw [redraw_rejects t ((h.test_iff hl).mpr hr)] at hdrawn ⊢
  refine ⟨hdrawn, rfl, rfl, ⟨h.smp.lim, h.smp.residue, rfl, ?_⟩, h.slow⟩
  rw [slowPhases_succ, ← h.smp.phases]
  simp

/-- A redraw, accepted. -/
theorem State.Redrawing.answers (hS : s.S ≠ zeroQuad) (hr : ¬ Rejects limit.toNat (rawAt s.S (n + 1)).toNat) :
    s.Answered limit (n + 1) t.redraw := by
  have hdrawn := h.toDrawn.redraw
  have hseeded : genNext t.S ≠ zeroQuad := genNext_ne_zero (h.S ▸ stateAfter_ne_zero hS _)
  rw [redraw_accepts t (mt (h.test_iff hl).mp hr)] at hdrawn ⊢
  refine ⟨hdrawn, rfl, rfl, ?_, rfl, .inr ⟨h.slow, ?_⟩⟩
  · rw [sampleDone_of_seeded (s := t.sampleDraw.enter .loopCheck) hseeded, ← hdrawn.draws, rawAt, ← h.S,
      ← hi32_mul64_eq, ← h.smp.lim, ← h.fault]
    rfl
  · rw [slowPhases_succ, ← h.smp.phases]
    simp

/-- As long as the samples are rejected each step is one redraw, and nothing caps their number (41_sampler.md R108).
The `k` edges are for what follows. -/
theorem State.Redrawing.after_rejects (m k : Nat) (hu : Uninterrupted t.offered (t.edges.take (m + k)))
    (hr : ∀ i, n < i → i ≤ n + m → Rejects limit.toNat (rawAt s.S i).toNat) :
    ∃ t', t.after (m + k) = t'.after k ∧ s.Redrawing limit (n + m) t' ∧ t'.edges = t.edges.drop m ∧
      Uninterrupted t'.offered (t'.edges.take k) := by
  induction m generalizing n t with
  | zero =>
    rw [Nat.zero_add] at hu ⊢
    exact ⟨t, rfl, h, rfl, hu⟩
  | succ m ih =>
    rw [Nat.add_right_comm] at hu ⊢
    obtain ⟨o, hstep, hu'⟩ := step_redraw_uninterrupted h.seq h.work hu
    have hnext := h.redraw hl (hr (n + 1) (by omega) (by omega))
    obtain ⟨t', hafter, ht', hedges, hu''⟩ := ih (hnext.of_environment o (t.edges.drop 1)) hu'
      fun i hi him => hr i (by omega) (by omega)
    refine ⟨t', (after_succ hstep _).trans hafter, ?_, ?_, hu''⟩
    · rwa [Nat.add_right_comm, Nat.add_assoc] at ht'
    · rw [hedges, List.drop_drop, Nat.add_comm]

end redraw

section bounded

variable (hS : s.S ≠ zeroQuad) (hl : limit ≠ 0) (hd : s.draws = 0)

include hS hl hd

/-- A BOUNDED whose draws up to number `n` are all rejected. The `k` edges are for what follows. -/
theorem bounded_redraws (k : Nat) (hu : Uninterrupted s.offered (s.edges.take (n + k)))
    (hr : ∀ m ≤ n, Rejects limit.toNat (rawAt s.S m).toNat) :
    ∃ u t, exec (.bounded limit) s = .next u ∧ u.after (n + k) = t.after k ∧ s.Redrawing limit n t ∧
      t.edges = s.edges.drop n ∧ Uninterrupted t.offered (t.edges.take k) := by
  have hfirst := State.Redrawing.firstSample hl hd (hr 0 (Nat.zero_le n))
  have hoffered : (s.latch limit).firstSample.offered = s.offered := firstSample_offered _
  have hedges : (s.latch limit).firstSample.edges = s.edges := firstSample_edges _
  rw [← hoffered, ← hedges] at hu
  obtain ⟨t, hafter, ht, hdrop, hu'⟩ := hfirst.after_rejects hl n k hu fun i _ hi => hr i (by omega)
  rw [Nat.zero_add] at ht
  exact ⟨_, t, exec_bounded_of_seeded hS hl, hafter, ht, hedges ▸ hdrop, hu'⟩

/-- A BOUNDED answers with its first draw that is not rejected. -/
theorem bounded_answers (hu : Uninterrupted s.offered (s.edges.take n))
    (hr : ∀ m < n, Rejects limit.toNat (rawAt s.S m).toNat) (ha : ¬ Rejects limit.toNat (rawAt s.S n).toNat) :
    ∃ u t, exec (.bounded limit) s = .next u ∧ u.after n = .next t ∧ s.Answered limit n t ∧
      t.edges = s.edges.drop n := by
  cases n with
  | zero =>
    exact ⟨_, _, exec_bounded_of_seeded hS hl, after_zero _, .firstSample hS hl hd ha, firstSample_edges _⟩
  | succ n =>
    obtain ⟨u, t, hexec, hafter, ht, hedges, hu'⟩ :=
      bounded_redraws hS hl hd 1 hu fun m hm => hr m (Nat.lt_succ_of_le hm)
    obtain ⟨o, hstep, -⟩ := step_redraw_uninterrupted (n := 0) ht.seq ht.work hu'
    refine ⟨u, _, hexec, hafter.trans (after_succ hstep 0), { ht.answers hl hS ha with }, ?_⟩
    rw [hedges, List.drop_drop]

end bounded

/-- The DRAW phases count the draws (41_sampler.md R109). -/
theorem State.Answered.count_draw (h : s.Answered limit n t) : t.smp.phases.count .draw = n + 1 := by
  rw [← List.count_reverse]
  obtain ⟨rfl, -, hp⟩ | ⟨-, hp⟩ := h.phases
  · rw [hp]
    rfl
  · rw [hp, List.count_append, count_draw_slowPhases]
    rfl

end loop

/-! ### The response is below the limit -/

/-- A response made with OK carries DATA below the limit and counts a draw (41_sampler.md R106). -/
def State.AnswersBelow (t : State) (limit : Word) : Prop :=
  t.seq = .rspPend → t.rspData.extractLsb' 32 4 = 0x0 →
    t.rspData.extractLsb' 0 32 < limit ∧ t.rspData.extractLsb' 40 24 ≠ 0 ∧
      (limit = 1 → t.rspData.extractLsb' 0 32 = 0)

namespace State.AnswersBelow

theorem of_not_rspPend {t : State} {limit : Word} (h : t.seq ≠ .rspPend) : t.AnswersBelow limit :=
  fun hq => absurd hq h

section product

variable {s : State} {raw limit : Word} (hl : limit ≠ 0) (hnum : s.smp.num = mul64 raw limit) (hd : s.draws ≠ 0)

include hl hnum hd

theorem sampleDone : s.sampleDone.AnswersBelow limit := by
  intro _ _
  have hlt : hi32 s.smp.num < limit := hnum ▸ hi32_mul64_lt raw hl
  rw [sampleDone_rspData, State.rspWord, data_packRsp, draws_packRsp]
  exact ⟨hlt, hd, fun h1 => (BitVec.lt_one_iff (by decide)).mp (lt_of_lt_of_eq hlt h1)⟩

theorem loopCheck : s.loopCheck.AnswersBelow limit := by
  obtain ⟨_, hq, _⟩ | ⟨_, h⟩ := loopCheck_cases s
  · exact of_not_rspPend (by simp [hq])
  · rw [h]
    exact sampleDone (s := s.enter .loopCheck) hl hnum hd

theorem fastCheck : s.fastCheck.AnswersBelow limit := by
  by_cases h : lo32 s.smp.num < s.smp.lim
  · rw [fastCheck_slow s h]
    exact loopCheck (s := (s.enter .fastCheck).residueCalc) hl hnum hd
  · rw [fastCheck_accepts s h]
    exact sampleDone (s := s.enter .fastCheck) hl hnum hd

end product

section command

variable {s t : State} {limit : Word} (hl : limit ≠ 0) (hlim : s.smp.lim = limit)

include hl hlim

theorem redraw : s.redraw.AnswersBelow limit :=
  loopCheck (s := s.sampleDraw) hl (congrArg (mul64 (genOutput s.S)) hlim) (satInc_ne_zero s.draws)

theorem firstSample : s.firstSample.AnswersBelow limit := by
  have hnum : { s with smp := { s.smp with phases := [] } }.sampleDraw.smp.num = mul64 (genOutput s.S) limit :=
    congrArg (mul64 (genOutput s.S)) hlim
  exact fastCheck hl hnum (satInc_ne_zero s.draws)

theorem ensureSeeded : (s.ensureSeeded .bounded).AnswersBelow limit := by
  by_cases hS : s.S = zeroQuad
  · rw [ensureSeeded_of_unseeded s .bounded hS]
    exact of_not_rspPend nofun
  · rw [ensureSeeded_of_seeded s .bounded hS]
    exact firstSample hl hlim

theorem useAnswer (c : BitVec 5) (d : EntData) : (s.useAnswer .bounded c d).AnswersBelow limit := by
  obtain ⟨_, h⟩ | ⟨_, _, h⟩ | ⟨_, _, h⟩ := useAnswer_cases s .bounded c d
  · rw [h]
    intro _ hok
    rw [shortRead_rspData, status_packRsp] at hok
    exact absurd hok (by decide)
  · rw [h]
    exact of_not_rspPend nofun
  · rw [h]
    exact firstSample (s := { s with S := entWords d }) hl hlim

/-- A step of a BOUNDED with a redraw due. -/
theorem step_redraw (hw : s.work = .redrawing) (hq : s.seq = .exec) (hn : s.NotReset) (h : step s = .next t) :
    t.AnswersBelow limit := by
  cases step_next_cases h with
  | redraws _ _ _ ht => exact ht ▸ redraw hl hlim
  | reset e rest he hr _ => exact absurd ((hn e rest he).symm.trans hr) nofun
  | execEdge e rest he hr hk _ _ =>
    rw [step_exec_redraw he hr hk hq hw, Host.Outcome.next.injEq] at h
    exact h ▸ redraw (s := noteOffer { s with edges := rest } e) hl hlim
  | waits _ _ _ _ _ hq' => simp [hq] at hq'
  | quiet _ _ _ _ _ hq' | faulted _ _ _ _ _ hq' | illegal _ _ _ _ _ hq' | runs _ _ _ _ _ hq'
  | answer _ _ _ _ _ hq' | transfer _ _ _ _ _ hq' => exact absurd (hq.symm.trans hq') nofun

/-- A step of a BOUNDED that waits for its entropy answer. -/
theorem step_entWait (hw : s.work = .seeding .bounded) (hq : s.seq = .entWait) (hn : s.NotReset)
    (h : step s = .next t) : t.AnswersBelow limit := by
  cases step_next_cases h with
  | reset e rest he hr _ => exact absurd ((hn e rest he).symm.trans hr) nofun
  | answer e rest he hr hk _ hv ho _ =>
    rw [step_answer_of_seeding hq ho hw he hr hk hv, Host.Outcome.next.injEq] at h
    exact h ▸ useAnswer (s := { s with
      entOut := false, seq := .exec, edges := rest, offered := e.nowOffered }) hl hlim _ _
  | waits e rest _ _ _ _ ht =>
    rw [ht]
    exact of_not_rspPend (by simp [hq])
  | redraws _ hq' | quiet _ _ _ _ _ hq' | faulted _ _ _ _ _ hq' | illegal _ _ _ _ _ hq' | runs _ _ _ _ _ hq'
  | execEdge _ _ _ _ _ hq' | transfer _ _ _ _ _ hq' => exact absurd (hq.symm.trans hq') nofun

end command

end State.AnswersBelow

/-! ### The statements -/

/-- Settles O21: the fast path and the slow one answer alike, with the high word of the product. -/
theorem boundedAcceptsAFirstSampleThatIsNotRejected :
    Obligations.BoundedAcceptsAFirstSampleThatIsNotRejected := by
  intro s limit hS hl hd h
  obtain ⟨smp, hsmp, hfirst⟩ := firstSample_of_not_rejects (s := s.latch limit) (limit := limit) rfl hl h
  refine ⟨smp.enter .done, ?_⟩
  rw [exec_bounded_of_seeded hS hl, hfirst, sampleDone_of_seeded (genNext_ne_zero hS), hsmp.num, hi32_mul64_eq,
    ← satInc_of_eq_zero hd]
  rfl

/-- Settles O22: a rejected sample is below the residue, so below the limit too, and FAST_CHECK lets it by. -/
theorem boundedGoesOnAfterARejectedFirstSample : Obligations.BoundedGoesOnAfterARejectedFirstSample := by
  intro s limit hS hl hd h
  obtain ⟨smp, hsmp, hfirst⟩ := firstSample_of_rejects (s := s.latch limit) (limit := limit) rfl hl h
  refine ⟨smp, hsmp.lim, by rw [hsmp.residue, residue_toNat hl], hsmp.phase, ?_⟩
  rw [exec_bounded_of_seeded hS hl, hfirst, ← satInc_of_eq_zero hd]
  rfl

/-- Settles O25: `2^32 - LIM` and `2^32` have the same remainder. -/
theorem residueIsTwoToThe32ModLimit : Obligations.ResidueIsTwoToThe32ModLimit :=
  fun _ h => ⟨residue_toNat h, residue_lt h⟩

/-- Settles O26: one lemma for each limit. -/
theorem boundedCornerCases : Obligations.BoundedCornerCases := by
  refine ⟨fun raw => ⟨?_, by decide⟩, fun k raw _ hk => ?_, ⟨by decide, fun raw => ⟨?_, hi32_mul64_max⟩⟩,
    by decide, fun limit h => two_pow_mod_le (BitVec.toNat_pos_of_ne_zero h) limit.isLt⟩
  · exact (BitVec.lt_one_iff (by decide)).mp (hi32_mul64_lt raw (by decide))
  · exact ⟨residue_one_shiftLeft (by omega), hi32_mul64_one_shiftLeft (by omega) raw⟩
  · exact (rejects_max_iff raw.isLt).trans (BitVec.toNat_inj (y := 0))

/-- Settles O27: at each way a BOUNDED can end, the product in NUM is one by the limit and a draw has been counted. -/
theorem boundedAnswersBelowTheLimit : Obligations.BoundedAnswersBelowTheLimit := by
  intro s t limit hl h
  rcases h with hexec | ⟨hstep, hlim, hn, ⟨hw, hq⟩ | ⟨hw, hq⟩⟩
  · rw [exec_bounded s hl, Host.Outcome.next.injEq] at hexec
    exact hexec ▸ State.AnswersBelow.ensureSeeded (s := s.latch limit) hl rfl
  · exact State.AnswersBelow.step_redraw hl hlim hw hq hn hstep
  · exact State.AnswersBelow.step_entWait hl hlim hw hq hn hstep

/-- Settles O28: the loop, and its last draw. -/
theorem boundedAnswersWithTheFirstSampleNotRejected :
    Obligations.BoundedAnswersWithTheFirstSampleNotRejected := by
  intro s limit n hS hl hd hu hr ha
  obtain ⟨u, t, hexec, hafter, ht, hedges⟩ := bounded_answers hS hl hd hu hr ha
  exact ⟨u, t, hexec, hafter, ht.seq, ht.work, ht.S, ht.stage, ht.fault, ht.draws, hedges, ht.trace, ht.rspData⟩

/-- Settles O29: the loop alone. -/
theorem rejectionLoopHasNoCap : Obligations.RejectionLoopHasNoCap := by
  intro s limit n hS hl hd hu hr
  obtain ⟨u, t, hexec, hafter, ht, hedges, -⟩ := bounded_redraws hS hl hd 0 hu hr
  exact ⟨u, t, hexec, hafter, ht.seq, ht.work, ht.S, ht.draws, hedges, ht.trace⟩

/-- Settles O30: the model's comparison is that of R107, and the counts are those of all the naturals below `2^32`. -/
theorem everyResultHasEquallyManyAcceptedRawValues : Obligations.EveryResultHasEquallyManyAcceptedRawValues := by
  intro limit h
  have hL := BitVec.toNat_pos_of_ne_zero h
  refine ⟨lo32_lt_residue_iff h, card_rejected (Nat.two_pow_pos 32) hL, fun j hj => ?_⟩
  rw [← card_accepted (Nat.two_pow_pos 32) hL hj]
  refine congrArg Finset.card (Finset.filter_congr fun raw hraw => ?_)
  rw [hi32_mul64_toNat, BitVec.toNat_ofNat, Nat.mod_eq_of_lt (Finset.mem_range.mp hraw)]

/-- Settles O57: with an edge or without, the step is the redraw. -/
theorem redrawIsOneGenStepTestedAgainstResidue : Obligations.RedrawIsOneGenStepTestedAgainstResidue := by
  intro s hq hw
  have hraw : s.redraw.smp.raw = genOutput s.S := loopCheck_raw _
  have hnum : s.redraw.smp.num = mul64 (genOutput s.S) s.smp.lim := loopCheck_num _
  refine ⟨s.redraw.smp, redraw_lim s, redraw_residue s, hraw, hnum, ?_⟩
  intro drawn after
  have hafter : after = s.redraw := by
    rw [redraw_eq hq hw, ← hnum]
    rfl
  refine ⟨by rw [redraw_phase, hnum], fun he => ?_, fun e rest he hr hk => ?_⟩
  · rw [hafter, step_redraws he hq hw]
  · rw [hafter, step_exec_redraw he hr hk hq hw, ← redraw_environment]
    rfl

/-- Settles O58: each draw of the loop adds its own phases to the record. -/
theorem samplerPhasesFollowTheSequence : Obligations.SamplerPhasesFollowTheSequence := by
  intro s limit n hS hl hd hu hr ha
  obtain ⟨u, t, hexec, hafter, ht, -⟩ := bounded_answers hS hl hd hu hr ha
  refine ⟨u, t, hexec, hafter, ht.seq, ht.phase, ?_, ht.count_draw, fun hn => ?_⟩
  · obtain ⟨-, hfast, hp⟩ | ⟨hslow, hp⟩ := ht.phases
    · rw [if_pos hfast, hp]
    · rw [if_neg hslow, hp, slowPhases]
  · rw [ht.draws, drawsAfter_toNat hn, ht.count_draw]

end Sys2Proof.Machine
end

section
/-! PROOFS. The control command (42_control.md): NOP answers and changes nothing else. -/

namespace Sys2Proof.Machine

/-- Settles O12: NOP is one `respond`, which writes SEQ, the work and the response register, and the register gets the
status of the block as it stands (42_control.md R120). -/
theorem nopAnswersOkAndChangesNothingElse : Obligations.NopAnswersOkAndChangesNothingElse :=
  fun s => exec_nop s

end Sys2Proof.Machine
end

section
/-! PROOFS. The errors of a block (60_exceptions.md): each status, the sticky fault, the prologue, and the blocks of a
system. The lemmas come first; the theorems that settle the statements of this family stand at the end. -/

namespace Sys2Proof.Machine

/-! ### The error response -/

/-- Every error has the one form of 60_exceptions.md R131. -/
theorem raise_eq (s : State) (error : Status) : s.raise error =
    { s with seq := .rspPend, work := .none, rspData := packRsp 0 s.fault s.seeded error.code 0 } := rfl

/-- On an unseeded block the error of a short read has SEEDED 0 and FLT 1 (60_exceptions.md R134). -/
theorem shortRead_of_unseeded {s : State} (hS : s.S = zeroQuad) : s.shortRead =
    { s with fault := true, seq := .rspPend, work := .none, rspData := packRsp 0 true false 0xF 0 } := by
  rw [State.shortRead, State.raise, State.respond, rspWord_of_unseeded (s := { s with fault := true }) hS]
  rfl

/-- What a faulted block, which is unseeded, answers to every word (60_exceptions.md R135). -/
theorem raise_fatalEntropy_of_faulted {s : State} (hf : s.fault = true) (hS : s.S = zeroQuad) :
    s.raise .fatalEntropy = { s with seq := .rspPend, work := .none, rspData := 0x0000002F00000000 } := by
  rw [State.raise, State.respond, rspWord_of_unseeded hS, hf]
  rfl

/-! ### The sticky fault and the blocks of a system -/

/-- Without a reset no step clears FAULT (60_exceptions.md R135). -/
theorem step_keeps_fault {s t : State} (h : step s = .next t) (hn : s.NotReset) (hf : s.fault = true) :
    t.fault = true := by
  obtain hkept | ⟨-, e, rest, he, hr⟩ | ⟨hset, -⟩ := step_fault_cases h
  · exact hkept.trans hf
  · exact absurd ((hn e rest he).symm.trans hr) nofun
  · exact hset

/-- A block of a system that has a next state takes it, in its own place (60_exceptions.md R144). -/
theorem stepBlock_of_step {sys : System} {k : Fin sys.blocks.length} {t : State}
    (h : step (sys.blocks.get k) = .next t) : sys.stepBlock k = .next ⟨sys.blocks.set k.val t⟩ := by
  simp only [System.stepBlock, h]

/-! ### The statements -/

/-- Settles O40: the step is the error of a faulted block, and `State.Inv` has S zero there. -/
theorem stickyFaultAnswersEveryCommand : Obligations.StickyFaultAnswersEveryCommand := by
  refine ⟨fun s t hf hn h => step_keeps_fault h hn hf, fun s e rest hinv hf hq he hr hk hv => ?_⟩
  have hS : s.S = zeroQuad := hinv.fault_unseeded hf
  exact (step_accept_faulted he hr hk hq hv hf).trans (congrArg _ (raise_fatalEntropy_of_faulted hf hS))

/-- Settles O56: the list of blocks with one of them replaced. -/
theorem blocksOfASystemShareNothing : Obligations.BlocksOfASystemShareNothing :=
  fun _ k _ h => ⟨_, stepBlock_of_step h, List.length_set, List.getElem?_set_self k.isLt,
    fun _ hj => List.getElem?_set_ne hj.symm⟩

/-- Settles O17: the guard of SEEDC, and the form of its error. -/
theorem seedcRefusesAnAllZeroStage : Obligations.SeedcRefusesAnAllZeroStage :=
  fun s h => (exec_seedc_zero s h).trans (congrArg _ (raise_eq s .zeroSeed))

/-- Settles O20: LIM is latched, and the rest is the form of the error. -/
theorem boundedRefusesLimitZero : Obligations.BoundedRefusesLimitZero :=
  fun s => (exec_bounded_zero s).trans (congrArg _ (raise_eq { s with smp := { s.smp with lim := 0 } } .limitZero))

/-- Settles O35: the answer is a short read of an unseeded block; with its response made, nothing asks. -/
theorem shortReadSetsTheStickyFault : Obligations.ShortReadSetsTheStickyFault := by
  intro s e rest k hq ho hw hS he hr hk hv hc
  refine ⟨_, rfl, ?_, rfl, rfl⟩
  rw [step_answer_of_seeding hq ho hw he hr hk hv, useAnswer_short _ k hc]
  exact congrArg _ (shortRead_of_unseeded hS)

/-- Settles O38: the state the instruction runs on is that of `State.accept`. -/
theorem stepRunsTheDecodedCommand : Obligations.StepRunsTheDecodedCommand :=
  fun _ _ _ _ hq hf he hr hk hv hd => step_accept_runs he hr hk hq hv hf hd

/-- Settles O39: the form of an error, and the prologue's, whose FLT is 0 since FAULT is. -/
theorem undecodableWordIsAnsweredIllegal : Obligations.UndecodableWordIsAnsweredIllegal := by
  refine ⟨raise_eq, fun s e rest r hq hf he hr hk hv hd => ?_⟩
  rw [step_accept_illegal he hr hk hq hv hf hd, raise_eq, accept_fault, hf]
  rfl

end Sys2Proof.Machine
end

section
/-! PROOFS. Reset and quiet edges (70_reset_and_hazards.md). The lemmas come first; the theorems that settle the
statements of this family stand at the end. -/

namespace Sys2Proof.Machine

/-! ### Quiet edges at a hold -/

/-- A block with no word on offer still has none after an edge that offers none. -/
theorem noteOffer_of_none {s : State} {e : Edge} (ho : s.offered = none) (hv : e.cmdValid = false) :
    noteOffer s e = s := by
  rw [noteOffer, if_neg (by simp [hv]), ← ho]

/-- At a hold with no word on offer, a quiet edge takes nothing but its own place in the script
(70_reset_and_hazards.md R167). -/
theorem step_quiet {s : State} {rest : List Edge} (he : s.edges = Edge.quiet :: rest) (ho : s.offered = none)
    (h : ¬(s.seq = .exec ∧ s.work = .redrawing)) : step s = .next { s with edges := rest } := by
  have hk : s.OfferHeld Edge.quiet := offerHeld_of_none ho _
  have hn : noteOffer { s with edges := rest } Edge.quiet = { s with edges := rest } := noteOffer_of_none ho rfl
  -- Named, so that the split on SEQ does not reach into the state after the step.
  generalize ht : { s with edges := rest } = t at hn ⊢
  cases hq : s.seq with
  | idle => rw [step_idle_quiet he rfl hk hq rfl, ht]
  | exec =>
    cases hw : s.work with
    | none => rw [step_exec_none he rfl hk hq hw, ht, hn]
    | seeding k => rw [step_exec_wait he rfl hk hq hw rfl, ht, hn]
    | redrawing => exact absurd ⟨hq, hw⟩ h
  | entWait => rw [step_entWait_wait he rfl hk hq rfl, ht, hn]
  | rspPend => rw [step_rspPend_wait he rfl hk hq rfl, ht, hn]

/-! ### The outputs during reset -/

/-- While `rst` is 1 the three handshake outputs are 0 (70_reset_and_hazards.md R160). -/
theorem outputs_during_reset (s : State) :
    s.cmdReady true = false ∧ s.rspValid true = false ∧ s.entReqValid true = false := ⟨rfl, rfl, rfl⟩

/-! ### The statements -/

/-- Settles O45, by induction on the number of quiet edges. -/
theorem edgeWithoutAMoveChangesNothingAtAHold : Obligations.EdgeWithoutAMoveChangesNothingAtAHold := by
  intro s rest n ho h
  induction n with
  | zero => exact after_zero _
  | succ n ih =>
    have hstep : step { s with edges := List.replicate (n + 1) Edge.quiet ++ rest } =
        .next { s with edges := List.replicate n Edge.quiet ++ rest } := step_quiet rfl ho h
    exact (after_succ hstep n).trans ih

/-- Settles O46: the step is `State.resetEdge`, whatever else the edge brings. -/
theorem resetEdgePutsEveryItemAtItsResetValue : Obligations.ResetEdgePutsEveryItemAtItsResetValue := by
  intro s e rest he hr
  obtain ⟨hready, hvalid, hreq⟩ := outputs_during_reset s
  rw [hr]
  exact ⟨_, step_reset he hr, resetEdge_S _, resetEdge_stage _, resetEdge_fault _, resetEdge_seq _,
    resetEdge_work _, resetEdge_entOut _, resetEdge_draws _, resetEdge_edges _, resetEdge_trace _,
    hready, hvalid, hreq, cmdReady_iff.mpr ⟨rfl, resetEdge_seq _⟩⟩

end Sys2Proof.Machine
end
